-- ==== Sys2Proof/Word.lean ====
section
/-! DEFINITION. The value types of the block (00_scope.md sections 4 and 6). -/

namespace Sys2Proof

/-- A byte: 8 bits, unsigned (00_scope.md section 4, "byte width"). -/
abbrev Byte := BitVec 8

/-- The measurement and `RES`: 16 bits, unsigned (00_scope.md section 4, "measurement width"). -/
abbrev Measurement := BitVec 16

/-- An offset into `RB` as it is formed: 9 bits, so that `2 + 255` does not wrap
(00_scope.md section 6, `zext_9`; 20_memory.md R31). -/
abbrev Offset := BitVec 9

end Sys2Proof
end

