-- ==== Sys2Proof/Config.lean ====
section
/-! DEFINITION. The parameters of the block: the fixed ones of 00_scope.md R2, R3, R4 and the open type `E`. -/

namespace Sys2Proof

/-- `HDR_RESP`: the value the byte at offset 0 of a response must have (00_scope.md R2). -/
def HDR_RESP : Byte := 0x16#8

/-- `CMD_CODE`: the value the CMD-echo byte must have (00_scope.md R2). -/
def CMD_CODE : Byte := 0x0b#8

/-- `REQ_LEN` (00_scope.md R3). -/
abbrev REQ_LEN : Nat := 5

/-- `RESP_LEN` (00_scope.md R4). -/
abbrev RESP_LEN : Nat := 20

/-- `N_MAX`: the largest length byte whose checksum offset `2 + N` is inside `RB` (00_scope.md section 4). -/
abbrev N_MAX : Nat := 17

/-- `REQ`, the request frame, lowest offset first (00_scope.md R3, 10_state.md R11, 30_encoding.md R50). It is
hard-wired: no operation can write it, so it is a constant and no field of State (log 11). -/
def REQ : List Byte := [0x11#8, 0x02#8, 0x0b#8, 0x01#8, 0xe1#8]

/-- The transport's error type `E` (10_state.md R21, 92_eei_decisions.md D22): opaque tokens the block stores and never
inspects. DESIGN CHOICE (log 7): the tokens are natural numbers, so that State is plain comparable data. -/
structure TErr where
  token : Nat
deriving DecidableEq, Repr

/-- Twenty bytes, lowest offset first: what `TRead(20)` delivers, and `RB_INIT` (41_transaction.md R106, 10_state.md R10). -/
abbrev Frame := Vector Byte RESP_LEN

end Sys2Proof
end

