-- ==== Sys2Proof/Syntax.lean ====
section
/-! DEFINITION. The operation set: one constructor per row of spec/opcode_table.json (00_scope.md R6, 30_encoding.md R57,
R58). No operation takes an operand (R58), so no constructor has an argument. -/

namespace Sys2Proof

/-- The three formats of spec/opcode_table.json (30_encoding.md, opening paragraph). -/
inductive Format where
  /-- `POS`: selected by the 7-bit position word `PW` (R56). -/
  | pos
  /-- `HOST`: selected by the 1-bit `OP` (R58). -/
  | host
  /-- `DRV`: selected by the 2-bit `TS` (R58). -/
  | drv
deriving DecidableEq, Repr

/-- The operations, in the table's order. `DFN` has six rows, for the loop indices R57 lists (log 16). -/
inductive Instr where
  | hdr
  | len
  | cmd
  /-- `DFN` at loop index 1. -/
  | dfn1
  /-- `DFN` at loop index 2. -/
  | dfn2
  | dfh
  | dfl
  /-- `DFN` at loop index 5. -/
  | dfn5
  /-- `DFN` at loop indices 6 and 7. -/
  | dfn6to7
  /-- `DFN` at loop indices 8 to 15. -/
  | dfn8to15
  /-- `DFN` at loop indices 16 to 31. -/
  | dfn16to31
  | chk
  | parse
  | readPm25
  | sendCommand
  | readResponse
  | parseInvoke
deriving DecidableEq, Repr

/-- Every operation, in the table's order. -/
def Instr.all : List Instr :=
  [.hdr, .len, .cmd, .dfn1, .dfn2, .dfh, .dfl, .dfn5, .dfn6to7, .dfn8to15, .dfn16to31, .chk] ++
  [.parse, .readPm25] ++ [.sendCommand, .readResponse, .parseInvoke]

end Sys2Proof
end

