-- ==== Sys2Proof/WellFormed.lean ====
section
/-! DEFINITION. What can be ill-formed on this hardware. No operation has an operand (30_encoding.md R58), so every term of
`Instr` is well-formed; what can be ill-formed is the WORD that selects an operation: it may not fit its format's width
(R56, R58), and a driver word may be the code 0b11, which no rule produces (10_state.md R17). -/

namespace Sys2Proof

/-- The width in bits of a format's word (30_encoding.md R56, R58). -/
def Format.width : Format → Nat
  | .pos => 7
  | .host => 1
  | .drv => 2

/-- Check 1: the word fits its format. -/
def Format.fits (f : Format) (w : Nat) : Bool := w < 2 ^ f.width

/-- Check 2: the word is a code some rule produces (10_state.md R17: `TS` code 0b11 is never produced). -/
def Format.produced (f : Format) (w : Nat) : Bool := !(f == .drv && w == 3)

/-- A selecting word is well-formed. -/
def Format.wellFormed (f : Format) (w : Nat) : Bool := f.fits w && f.produced w

/-- Every operation is well-formed: it has no operand (30_encoding.md R58). -/
def Instr.wellFormed : Instr → Bool := fun _ => true

end Sys2Proof
end

