-- ==== Sys2Proof/Decode.lean ====
section
/-! DEFINITION. The operation map of 30_encoding.md R57 and R58 as a match-and-mask table, the decoder over it, the encoder,
the word interface of the host, and the listing syntax of R60. -/

namespace Sys2Proof

/-- The format of an operation's row (spec/opcode_table.json "format"). -/
def Instr.format : Instr → Format
  | .hdr | .len | .cmd | .dfn1 | .dfn2 | .dfh | .dfl | .dfn5 | .dfn6to7 | .dfn8to15 | .dfn16to31 | .chk => .pos
  | .parse | .readPm25 => .host
  | .sendCommand | .readResponse | .parseInvoke => .drv

/-- The `match` column (30_encoding.md R57, R58). -/
def Instr.matchBits : Instr → BitVec 7
  | .hdr => 0x00#7
  | .len => 0x20#7
  | .cmd => 0x40#7
  | .dfn1 => 0x41#7
  | .dfn2 => 0x42#7
  | .dfh => 0x43#7
  | .dfl => 0x44#7
  | .dfn5 => 0x45#7
  | .dfn6to7 => 0x46#7
  | .dfn8to15 => 0x48#7
  | .dfn16to31 => 0x50#7
  | .chk => 0x60#7
  | .parse => 0x0#7
  | .readPm25 => 0x1#7
  | .sendCommand => 0x0#7
  | .readResponse => 0x1#7
  | .parseInvoke => 0x2#7

/-- The `mask` column (30_encoding.md R57, R58): a 1 marks a bit the row fixes. -/
def Instr.maskBits : Instr → BitVec 7
  | .hdr => 0x60#7
  | .len => 0x60#7
  | .cmd => 0x7F#7
  | .dfn1 => 0x7F#7
  | .dfn2 => 0x7F#7
  | .dfh => 0x7F#7
  | .dfl => 0x7F#7
  | .dfn5 => 0x7F#7
  | .dfn6to7 => 0x7E#7
  | .dfn8to15 => 0x78#7
  | .dfn16to31 => 0x70#7
  | .chk => 0x60#7
  | .parse => 0x1#7
  | .readPm25 => 0x1#7
  | .sendCommand => 0x3#7
  | .readResponse => 0x3#7
  | .parseInvoke => 0x3#7

/-- The row of `i` matches the word `w` of format `f`. -/
def Instr.matchesWord (i : Instr) (f : Format) (w : Nat) : Bool :=
  i.format == f && BitVec.ofNat 7 w &&& i.maskBits == i.matchBits

/-- Why a word is no operation. -/
inductive Reject where
  /-- The word does not fit its format's width (30_encoding.md R56, R58). -/
  | tooWide
  /-- The driver code 0b11, which no rule produces (10_state.md R17, 93_implementation_defined.md U11). -/
  | unusedDriverCode
deriving DecidableEq, Repr

/-- What the decoder answers. -/
inductive Decoded where
  | ok (i : Instr)
  | rejected (r : Reject)
deriving DecidableEq, Repr

/-- The operation decoded, if any. -/
def Decoded.toOption : Decoded → Option Instr
  | .ok i => some i
  | .rejected _ => none

/-- The decoder: the operation a word of format `f` selects, total on every number, rejecting by name. -/
def decode (f : Format) (w : Nat) : Decoded :=
  if f.fits w then
    match Instr.all.find? (fun i => i.matchesWord f w) with
    | some i => .ok i
    | none => .rejected .unusedDriverCode
  else .rejected .tooWide

/-- The encoder: the word of `i` with its don't-care bits (the `x` of R57) taken from `x`. -/
def Instr.encodeWith (i : Instr) (x : BitVec 7) : BitVec 7 :=
  match i.format with
  | .pos => i.matchBits ||| (x &&& ~~~ i.maskBits)
  | .host | .drv => i.matchBits

/-- The encoder with every don't-care bit 0. -/
def Instr.encode (i : Instr) : BitVec 7 := i.encodeWith 0#7

/-- The word interface of the host: bit 0 is the least significant bit. A width of 1, 2 or 7 names its format. A whole byte
does not: the three formats share the words 0, 1 and 2. A byte is then read as a position word, but for 1 and 2, the
`match` words of `READ_PM25` and `PARSE_INVOKE`, which as position words (phase `HDR` with `I` not 0) never arise
(DESIGN CHOICE, log 14). -/
def decodeTableWord (nbits w : Nat) : Option Instr :=
  match nbits with
  | 1 => (decode .host w).toOption
  | 2 => (decode .drv w).toOption
  | 7 => (decode .pos w).toOption
  | _ =>
    match w with
    | 1 => some .readPm25
    | 2 => some .parseInvoke
    | w => (decode .pos w).toOption

/-- The mnemonic of an operation, as spec/opcode_table.json spells it. -/
def Instr.mnemonic : Instr → String
  | .hdr => "HDR"
  | .len => "LEN"
  | .cmd => "CMD"
  | .dfn1 | .dfn2 | .dfn5 | .dfn6to7 | .dfn8to15 | .dfn16to31 => "DFN"
  | .dfh => "DFH"
  | .dfl => "DFL"
  | .chk => "CHK"
  | .parse => "PARSE"
  | .readPm25 => "READ_PM25"
  | .sendCommand => "SEND_COMMAND"
  | .readResponse => "READ_RESPONSE"
  | .parseInvoke => "PARSE_INVOKE"

/-- The pseudo-mnemonic `DFk`, k = 1 to 16: the micro-operation at loop index `k` of the `DATA` phase
(30_encoding.md R60; R53 for the numbering). -/
def dfMicroOp (k : Nat) : Option Instr :=
  if 1 ≤ k ∧ k ≤ 16 then (decode .pos (0x40 + k)).toOption else none

/-- The byte column of one line of a listing: a byte written out, or the pseudo-mnemonic `CKS` (30_encoding.md R60). -/
inductive ListingByte where
  | byte (b : Byte)
  | cks
deriving DecidableEq, Repr

/-- The byte that makes a sum `s` cancel modulo 256: `(256 - s) mod 256` (30_encoding.md R55, R60). -/
def checksumByte (s : Byte) : Byte := BitVec.ofNat 8 (256 - s.toNat)

/-- The bytes a listing stands for, `s` being the sum modulo 256 of the bytes before it (30_encoding.md R60). -/
def assembleFrom (s : Byte) : List ListingByte → List Byte
  | [] => []
  | .byte b :: rest => b :: assembleFrom (s + b) rest
  | .cks :: rest => checksumByte s :: assembleFrom (s + checksumByte s) rest

/-- The bytes a listing stands for (30_encoding.md R60). -/
def assemble (l : List ListingByte) : List Byte := assembleFrom 0#8 l

end Sys2Proof
end

