-- ==== Sys2Proof/Machine/State.lean ====
section
/-! DEFINITION. The state of the block, of the host and of the transport, as plain data; the faults and refusals; reset. -/

namespace Sys2Proof.Machine

/-- `PH`, the phase of the codec sequencer (10_state.md R16). The codes no rule produces are no value of this type
(93_implementation_defined.md U11). -/
inductive Phase where
  | idle
  | hdr
  | len
  | data
  | chk
deriving DecidableEq, Repr

/-- `TS`, the state of the Transaction Driver (10_state.md R17, 90_conflicts.md C7). -/
inductive TState where
  | idle
  | awaitingResponse
  | parsing
deriving DecidableEq, Repr

/-- The two host operations, selected by `OP` (30_encoding.md R58). -/
inductive HostOp where
  | parse
  | readPm25
deriving DecidableEq, Repr

/-- A start the host will issue. `waits = true`: the host serialises its calls (41_transaction.md R108) and issues the start
once no operation is in progress. `waits = false`: the start comes at the very next step, whatever the block is doing; if
an operation is in progress, that breaks R108 (log 3). -/
structure HostStart where
  op : HostOp
  waits : Bool
deriving DecidableEq, Repr

/-- A call of the transport (41_transaction.md R106). -/
inductive TCall where
  /-- `TWrite(bytes)`. -/
  | write (bytes : List Byte)
  /-- `TRead(n)`. -/
  | read (n : Nat)
deriving DecidableEq, Repr

/-- The transport's answer to a `TWrite` (41_transaction.md R106). -/
inductive WriteAnswer where
  /-- All five bytes were accepted, in order. -/
  | ok
  /-- `Err(e)`; `emitted` is how many bytes of `REQ` left, free (R100, 93_implementation_defined.md U6; log 5). -/
  | err (e : TErr) (emitted : Fin (REQ_LEN + 1))
deriving DecidableEq, Repr

/-- The transport's answer to a `TRead(20)` (41_transaction.md R106). -/
inductive ReadAnswer where
  /-- Twenty bytes were delivered, `d[0]` first; any twenty bytes (93_implementation_defined.md U13). -/
  | ok (d : Frame)
  /-- A breach of the contract of R106: success reported after only `k` bytes, the first `k` of `d`
  (93_implementation_defined.md U4; log 6). -/
  | short (k : Fin RESP_LEN) (d : Frame)
  /-- `Err(e)`; `residue` is what the buffer holds afterwards, free (R101, 93_implementation_defined.md U5; log 5). -/
  | err (e : TErr) (residue : Frame)
deriving DecidableEq, Repr

/-- The transport agent (10_state.md R22 `TH`, 41_transaction.md R106; log 4): the answers it will give, oldest first, the
bytes it has been handed, oldest first, and the calls made to it, oldest first. An empty list of answers is a transport that
has not answered yet (R107). -/
structure Transport where
  writeAnswers : List WriteAnswer
  readAnswers : List ReadAnswer
  sent : List Byte
  calls : List TCall
deriving DecidableEq, Repr

/-- The six error kinds with the information each carries (60_exceptions.md R120). -/
inductive ErrorKind where
  | invalidHeader (byte : Byte)
  | invalidCommandResponse (byte : Byte)
  /-- `expected` is the byte FOUND in the frame, `calculated` the running sum (90_conflicts.md C8). -/
  | invalidChecksum (expected calculated : Byte)
  | serialReadFail (e : TErr)
  | serialWriteFail (e : TErr)
  | malformedLength (byte : Byte)
deriving DecidableEq, Repr

/-- The outcome of a host operation: `STATUS`, `INFO0`, `INFO1` and `TERR` as one value of the sum type that 10_state.md R19
allows and 93_implementation_defined.md U7 prefers (log 10). -/
inductive OpOutcome where
  | ok (v : Measurement)
  | error (k : ErrorKind)
deriving DecidableEq, Repr

/-- `RB` (10_state.md R10): the cells that differ from `RB_INIT` as (offset, byte) pairs in canonical form, and `RB_INIT`
itself, the open parameter an unlisted offset reads as (92_eei_decisions.md D10; log 8). -/
structure Memory where
  init : Frame
  cells : List Host.Cell
deriving DecidableEq, Repr

/-- The state. -/
structure State where
  /-- `RB` (10_state.md R10). -/
  rb : Memory
  /-- `LEN` (R12). -/
  len : Byte
  /-- `CSUM` (R13). -/
  csum : Byte
  /-- `RES` (R14). -/
  res : Measurement
  /-- `I` (R15). -/
  i : BitVec 5
  /-- `PH` (R16). -/
  ph : Phase
  /-- `TS` (R17). -/
  ts : TState
  /-- `OV` (R18). -/
  ov : Bool
  /-- `STATUS`, `INFO0`, `INFO1`, `TERR` (R19, R20, R21). -/
  outcome : OpOutcome
  /-- A `READ_PM25` is in progress (30_encoding.md R58, 41_transaction.md R103; log 2). -/
  reading : Bool
  /-- The transport call the block is blocked in (41_transaction.md R106, R107; log 4). -/
  call : Option TCall
  /-- The transport behind `TH` (10_state.md R22). -/
  transport : Transport
  /-- The starts the host will issue, oldest first (10_state.md R25; log 3). -/
  host : List HostStart
deriving DecidableEq, Repr

/-- No rule of the spec makes the block fault: "no content makes the codec fault, hang or go undefined" (40_frame_codec.md
R80), and every error is an outcome (60_exceptions.md R127). So there is no fault, and nobody raises one. -/
inductive Fault where
deriving DecidableEq, Repr

/-- Why a step has no meaning. -/
inductive Refusal where
  /-- Raised by `exec`'s arm of an operation that has no meaning yet. Safe. No arm raises it. -/
  | notModelled (mnemonic : String)
  /-- Raised by `PARSE`, `READ_PM25` and `PARSE_INVOKE` when an operation is already in progress: "a model refuses it"
  (40_frame_codec.md R70, 41_transaction.md R108, 92_eei_decisions.md D17). Safe. -/
  | overlappingStart
deriving DecidableEq, Repr

/-- The values after reset of everything 10_state.md R26 leaves unspecified or open. -/
structure ResetChoice where
  rbInit : Frame
  len : Byte
  csum : Byte
  res : Measurement
  i : BitVec 5
  outcome : OpOutcome
deriving DecidableEq, Repr

/-- DESIGN CHOICE (log 8, log 9): all zero, and `STATUS` code 0. -/
def ResetChoice.zero : ResetChoice where
  rbInit := Vector.replicate RESP_LEN 0#8
  len := 0#8
  csum := 0#8
  res := 0#16
  i := 0#5
  outcome := .ok 0#16

/-- A transport that has no answer ready and to which nothing has been sent. DESIGN CHOICE (log 4). -/
def Transport.silent : Transport where
  writeAnswers := []
  readAnswers := []
  sent := []
  calls := []

/-- The state after reset, for any choice of the unspecified values, any transport the host supplies and any starts the host
will issue (70_reset_and_hazards.md R150, 10_state.md R26). -/
def State.resetWith (c : ResetChoice) (th : Transport) (host : List HostStart) : State where
  rb := { init := c.rbInit, cells := [] }
  len := c.len
  csum := c.csum
  res := c.res
  i := c.i
  ph := .idle
  ts := .idle
  ov := false
  outcome := c.outcome
  reading := false
  call := none
  transport := th
  host := host

/-- The machine right after reset (10_state.md R26). -/
def State.reset : State := State.resetWith .zero .silent []

end Sys2Proof.Machine
end

