-- ==== Sys2Proof/Machine/Ops.lean ====
section
/-! DEFINITION. The named operations over `RB`, the sequencer, the outcome, the transport and the host; raising an error; the
selection of the next operation. -/

namespace Sys2Proof.Machine

/-! ### RB -/

/-- What an offset that is not listed reads as: `RB_INIT` there (10_state.md R10, 92_eei_decisions.md D10). -/
def Memory.unlisted (m : Memory) (a : Nat) : Byte := m.init.toList.getD a 0#8

/-- The byte listed at `a`, or else what an unlisted offset reads as. -/
def Memory.byte (m : Memory) (a : Nat) : Byte := (m.cells.lookup a).getD (m.unlisted a)

/-- The byte at offset `a`; none where there is no cell (10_state.md R10: offsets 0 to 19). -/
def Memory.read? (m : Memory) (a : Nat) : Option Byte := if a < RESP_LEN then some (m.byte a) else none

/-- `cells` with the byte at `a` set to `v`, in rising order. -/
def cellsInsert (a : Nat) (v : Byte) : List Host.Cell → List Host.Cell
  | [] => [(a, v)]
  | (b, w) :: rest =>
    if a < b then (a, v) :: (b, w) :: rest
    else if a = b then (a, v) :: rest
    else (b, w) :: cellsInsert a v rest

/-- `cells` without an entry at `a`. -/
def cellsErase (a : Nat) : List Host.Cell → List Host.Cell
  | [] => []
  | (b, w) :: rest => if a = b then rest else (b, w) :: cellsErase a rest

/-- `MemWrite(a, 1, v)` (20_memory.md R36), keeping the canonical form. There is no cell at an offset of 20 or more, and no
rule writes one (log 19). -/
def Memory.write (m : Memory) (a : Nat) (v : Byte) : Memory :=
  if a < RESP_LEN then
    { m with cells := if v = m.unlisted a then cellsErase a m.cells else cellsInsert a v m.cells }
  else m

/-- `MemWrite` of successive bytes from offset `a` on: byte k of a delivery goes to offset k (20_memory.md R33). -/
def Memory.writeFrom (m : Memory) (a : Nat) : List Byte → Memory
  | [] => m
  | v :: vs => (m.write a v).writeFrom (a + 1) vs

/-- The canonical form from offset `lo` on: rising offsets below 20, no entry equal to what an unlisted offset reads as. -/
def Memory.cellsWf (m : Memory) : Nat → List Host.Cell → Bool
  | _, [] => true
  | lo, (a, v) :: rest => lo ≤ a && a < RESP_LEN && v != m.unlisted a && m.cellsWf (a + 1) rest

/-- The canonical form of `RB`. -/
def Memory.wf (m : Memory) : Bool := m.cellsWf 0 m.cells

/-- `MemRead(a, 1)`: the byte at `a`, or `MalformedLength(LEN)` where `a >= 20` (20_memory.md R31, 60_exceptions.md R126). -/
def State.memRead (s : State) (a : Offset) : Except ErrorKind Byte :=
  match s.rb.read? a.toNat with
  | some b => .ok b
  | none => .error (.malformedLength s.len)

/-! ### Codes and the position word -/

/-- The code of `PH` (10_state.md R16). -/
def Phase.code : Phase → BitVec 3
  | .idle => 0b000#3
  | .hdr => 0b100#3
  | .len => 0b101#3
  | .data => 0b110#3
  | .chk => 0b111#3

/-- The code of `TS` (10_state.md R17). -/
def TState.code : TState → BitVec 2
  | .idle => 0b00#2
  | .awaitingResponse => 0b01#2
  | .parsing => 0b10#2

/-- The code of `OP` (30_encoding.md R58). -/
def HostOp.code : HostOp → BitVec 1
  | .parse => 0#1
  | .readPm25 => 1#1

/-- The position word `PW = {PH[1:0], I}` (30_encoding.md R56). R56 defines it only while `PH[2] = 1`; that in `IDLE` the function
answers `{0b00, I}`, the pattern of `HDR`, is the model's choice (DESIGN CHOICE, log 21), and `fetch` never uses it there. -/
def State.pw (s : State) : BitVec 7 := s.ph.code.extractLsb' 0 2 ++ s.i

/-! ### The sequencer -/

/-- `pc <- (P, k)` (00_scope.md section 6). -/
def State.setPc (s : State) (p : Phase) (k : BitVec 5) : State := { s with ph := p, i := k }

/-- `advance()`: the loop test, on 8 bits with `I` zero-extended (40_frame_codec.md R78). -/
def State.advance (s : State) : State :=
  { s with ph := if s.i.setWidth 8 = s.len then .chk else .data }

/-- No host operation is in progress: the condition under which a host operation may start (40_frame_codec.md R70,
41_transaction.md R103, R108). -/
def State.quiet (s : State) : Bool := s.ph == .idle && s.ts == .idle && !s.reading

/-- The start of a `PARSE`, common to the host's and the driver's (40_frame_codec.md R70). -/
def State.beginParse (s : State) : State := { s with res := 0#16 }.setPc .hdr 0#5

/-! ### Ends of an operation -/

/-- The end of a `READ_PM25` (41_transaction.md R102, R104). -/
def State.endTransaction (s : State) : State := { s with ts := .idle, reading := false, ov := true }

/-- `complete Ok(RES)` (40_frame_codec.md R77), with the end of the transaction where the `PARSE` was invoked by a
`READ_PM25` (41_transaction.md R102). -/
def State.complete (s : State) : State :=
  let t := { s with outcome := .ok s.res, ph := .idle }
  if t.reading then t.endTransaction else { t with ov := true }

/-- Error entry, `raise Kind(info)` (60_exceptions.md R128): the outcome, `PH <- IDLE`, `TS <- Idle`, `OV <- 1`, and the
operation in progress is over. Nothing else is written and nothing is saved; there is no return from an error (R130). -/
def State.raise (s : State) (k : ErrorKind) : State :=
  { s with outcome := .error k, ph := .idle, ts := .idle, reading := false, ov := true }

/-- Runs what a micro-operation computes from `s`: the next state, or an error, which is raised from `s` as it was, since the
raising micro-operation has written nothing (60_exceptions.md R128). -/
def State.commit (s : State) (r : Except ErrorKind State) : Host.Outcome State Fault Refusal :=
  match r with
  | .ok t => .next t
  | .error k => .next (s.raise k)

/-! ### The transport -/

/-- Issues the call `c`, once: a block already blocked in `c` issues nothing more (41_transaction.md R106, R107). -/
def State.issue (s : State) (c : TCall) : State :=
  if s.call = some c then s
  else { s with call := some c, transport := { s.transport with calls := s.transport.calls ++ [c] } }

/-- The transport has answered a write, having taken `bytes`; `rest` are its later answers (41_transaction.md R100, R106). -/
def State.writeAnswered (s : State) (bytes : List Byte) (rest : List WriteAnswer) : State :=
  { s with
    call := none
    transport := { s.transport with writeAnswers := rest, sent := s.transport.sent ++ bytes } }

/-- The transport has answered a read; `rest` are its later answers and `m` is what `RB` now holds (41_transaction.md R101). -/
def State.readAnswered (s : State) (m : Memory) (rest : List ReadAnswer) : State :=
  { s with
    call := none
    rb := m
    transport := { s.transport with readAnswers := rest } }

/-! ### What the host sees -/

/-- `STATUS` (10_state.md R19). -/
def OpOutcome.status : OpOutcome → BitVec 3
  | .ok _ => 0#3
  | .error (.invalidHeader _) => 1#3
  | .error (.invalidCommandResponse _) => 2#3
  | .error (.invalidChecksum _ _) => 3#3
  | .error (.serialReadFail _) => 4#3
  | .error (.serialWriteFail _) => 5#3
  | .error (.malformedLength _) => 6#3

/-- `INFO0` where the kind assigns it (60_exceptions.md R120); elsewhere it has no value a host may use (10_state.md R20). -/
def OpOutcome.info0 : OpOutcome → Option Byte
  | .error (.invalidHeader b) => some b
  | .error (.invalidCommandResponse b) => some b
  | .error (.invalidChecksum e _) => some e
  | .error (.malformedLength n) => some n
  | _ => none

/-- `INFO1` where the kind assigns it (60_exceptions.md R120, 10_state.md R20). -/
def OpOutcome.info1 : OpOutcome → Option Byte
  | .error (.invalidChecksum _ c) => some c
  | _ => none

/-- `TERR` where the kind assigns it (60_exceptions.md R120, 10_state.md R21). -/
def OpOutcome.terr : OpOutcome → Option TErr
  | .error (.serialReadFail e) => some e
  | .error (.serialWriteFail e) => some e
  | _ => none

/-- The measurement, of an `Ok` outcome only (40_frame_codec.md R87). -/
def OpOutcome.measurement : OpOutcome → Option Measurement
  | .ok v => some v
  | .error _ => none

/-- The outcome as the host sees it: only while `OV = 1` (10_state.md R25, 70_reset_and_hazards.md R154). -/
def State.hostOutcome (s : State) : Option OpOutcome := if s.ov then some s.outcome else none

/-- The host's read of `STATUS` (70_reset_and_hazards.md R154). -/
def State.hostSTATUS (s : State) : Option (BitVec 3) := s.hostOutcome.map OpOutcome.status

/-- The host's read of `INFO0` (70_reset_and_hazards.md R154). -/
def State.hostINFO0 (s : State) : Option Byte := s.hostOutcome.bind OpOutcome.info0

/-- The host's read of `INFO1` (70_reset_and_hazards.md R154). -/
def State.hostINFO1 (s : State) : Option Byte := s.hostOutcome.bind OpOutcome.info1

/-- The host's read of `TERR` (70_reset_and_hazards.md R154). -/
def State.hostTERR (s : State) : Option TErr := s.hostOutcome.bind OpOutcome.terr

/-- The host's read of `RES`: only of an `Ok` outcome (70_reset_and_hazards.md R154, 40_frame_codec.md R87). -/
def State.hostRES (s : State) : Option Measurement :=
  s.hostOutcome.bind (fun o => o.measurement.map (fun _ => s.res))

/-! ### Selection of the next operation -/

/-- The start the host issues at this step, if any (10_state.md R25, 41_transaction.md R108; log 3). -/
def State.hostStart (s : State) : Option HostOp :=
  match s.host with
  | [] => none
  | h :: _ => if h.waits && !s.quiet then none else some h.op

/-- The operation the block runs next and the state it runs in: a start of the host, else the micro-operation the position
word selects while a `PARSE` is in progress, else the sub-operation `TS` selects inside a `READ_PM25` (40_frame_codec.md
R78, 30_encoding.md R58). None: the block is idle and the host starts nothing. A start is taken off the host's list. -/
def State.fetch (s : State) : Option (Instr × State) :=
  match s.hostStart with
  | some op => (decode .host op.code.toNat).toOption.map (fun i => (i, { s with host := s.host.tail }))
  | none =>
    if s.ph ≠ .idle then (decode .pos s.pw.toNat).toOption.map (fun i => (i, s))
    else if s.reading then (decode .drv s.ts.code.toNat).toOption.map (fun i => (i, s))
    else none

/-! ### Placing a word where the next step selects it -/

/-- The phase whose code has the low bits `b` (30_encoding.md R56). -/
def Phase.ofBits (b : Nat) : Phase :=
  match b with
  | 0 => .hdr
  | 1 => .len
  | 2 => .data
  | _ => .chk

/-- The driver state of code `w` (10_state.md R17). -/
def TState.ofBits (w : Nat) : TState :=
  match w with
  | 0 => .idle
  | 1 => .awaitingResponse
  | _ => .parsing

/-- `s` without the starts that would come before anything else. -/
def State.noIntruder (s : State) : State := { s with host := s.host.dropWhile (fun h => !h.waits) }

/-- `s` with the word `w` placed where the next step selects its operation from: `PH` and `I` for a position word, the host's
start for an `OP`, `TS` inside a `READ_PM25` for a driver word (log 15). -/
def State.placeWord (s : State) (nbits w : Nat) : State :=
  match decodeTableWord nbits w with
  | none => s
  | some i =>
    match i.format with
    | .pos => s.noIntruder.setPc (Phase.ofBits (w / 32 % 4)) (BitVec.ofNat 5 w)
    | .host => { s with host := { op := if w = 0 then .parse else .readPm25, waits := false } :: s.host }
    | .drv => { s.noIntruder with ph := .idle, reading := true, ts := TState.ofBits w }

end Sys2Proof.Machine
end

