-- ==== Sys2Proof/Machine/Flags.lean ====
section
/-! DEFINITION. The accumulator and the tests of the codec. `OV` is the only flag of the block (10_state.md R18); it is written
by `clearOv` here and by the ends of an operation in Ops.lean. The zero test of `CHK` is consumed and not stored (R18). -/

namespace Sys2Proof.Machine

/-- `OV <- 0`, at the start of a host operation (10_state.md R18). -/
def State.clearOv (s : State) : State := { s with ov := false }

/-- `CSUM +8 b`: addition modulo 256, no carry kept (40_frame_codec.md R86 (a)). -/
def csumAdd (c b : Byte) : Byte := c + b

/-- The accumulation of a block byte and the step of the loop index: `CSUM <- CSUM +8 b; I <- I + 1`
(40_frame_codec.md R73 to R76). -/
def State.accumulate (s : State) (b : Byte) : State := { s with csum := csumAdd s.csum b, i := s.i + 1#5 }

/-- The header test (40_frame_codec.md R71). -/
def headerMatches (b : Byte) : Bool := b == HDR_RESP

/-- The command-echo test (40_frame_codec.md R73). -/
def commandMatches (b : Byte) : Bool := b == CMD_CODE

/-- The zero test of `diff = expected +8 CSUM` (40_frame_codec.md R77). -/
def checksumCancels (e c : Byte) : Bool := csumAdd e c == 0#8

end Sys2Proof.Machine
end

