-- ==== Sys2Proof/Machine/Operands.lean ====
section
/-! DEFINITION. The operand forms of the micro-operations: the four places of the frame they read (30_encoding.md R51, R57),
the offsets formed on 9 bits (40_frame_codec.md R86 (f)), and the assembly of the measurement (30_encoding.md R54). -/

namespace Sys2Proof.Machine

/-- The header byte, offset 0 (40_frame_codec.md R71, R72). -/
def State.headerByte (s : State) : Except ErrorKind Byte := s.memRead 0#9

/-- The length byte, offset 1 (40_frame_codec.md R72). -/
def State.lengthByte (s : State) : Except ErrorKind Byte := s.memRead 1#9

/-- The block byte at loop index `I`, offset `2 + I` (40_frame_codec.md R73 to R76). -/
def State.blockByte (s : State) : Except ErrorKind Byte := s.memRead (2#9 + s.i.setWidth 9)

/-- The trailing byte, offset `2 + zext_9(LEN)` (40_frame_codec.md R77). -/
def State.trailingByte (s : State) : Except ErrorKind Byte := s.memRead (2#9 + s.len.setWidth 9)

/-- `zext_16(b) * 256`, the 16-bit value with `b` in its high half (40_frame_codec.md R75, R86 (c)). -/
def highHalf (b : Byte) : Measurement := b.setWidth 16 * 256#16

/-- `RES +16 zext_16(b)` (40_frame_codec.md R76, R86 (d)). -/
def addLowHalf (r : Measurement) (b : Byte) : Measurement := r + b.setWidth 16

end Sys2Proof.Machine
end

