-- ==== Sys2Proof/Machine/Codec.lean ====
section
/-! DEFINITION. The micro-operations of the codec (40_frame_codec.md R71 to R77). -/

namespace Sys2Proof.Machine

/-- `HDR` (R71). -/
def execHdr (s : State) : Host.Outcome State Fault Refusal :=
  s.commit do
    let b ← s.headerByte
    if headerMatches b then .ok (s.setPc .len 0#5) else .error (.invalidHeader b)

/-- `LEN` (R72). -/
def execLen (s : State) : Host.Outcome State Fault Refusal :=
  s.commit do
    let h ← s.headerByte
    let n ← s.lengthByte
    .ok { s with len := n, csum := csumAdd h n, i := 0#5 }.advance

/-- `CMD` (R73): the comparison comes before the accumulation. -/
def execCmd (s : State) : Host.Outcome State Fault Refusal :=
  s.commit do
    let b ← s.blockByte
    if commandMatches b then .ok (s.accumulate b).advance else .error (.invalidCommandResponse b)

/-- A data frame with no field (R74). -/
def State.dataFrame (s : State) : Host.Outcome State Fault Refusal :=
  s.commit do
    let b ← s.blockByte
    .ok (s.accumulate b).advance

/-- `DFN` at loop index 1 (R74). -/
def execDfn1 (s : State) : Host.Outcome State Fault Refusal := s.dataFrame

/-- `DFN` at loop index 2 (R74). -/
def execDfn2 (s : State) : Host.Outcome State Fault Refusal := s.dataFrame

/-- `DFN` at loop index 5 (R74). -/
def execDfn5 (s : State) : Host.Outcome State Fault Refusal := s.dataFrame

/-- `DFN` at loop indices 6 and 7 (R74). -/
def execDfn6to7 (s : State) : Host.Outcome State Fault Refusal := s.dataFrame

/-- `DFN` at loop indices 8 to 15 (R74). -/
def execDfn8to15 (s : State) : Host.Outcome State Fault Refusal := s.dataFrame

/-- `DFN` at loop indices 16 to 31 (R74): at 18 and above its read raises (R85). -/
def execDfn16to31 (s : State) : Host.Outcome State Fault Refusal := s.dataFrame

/-- `DFH` (R75): `RES` is replaced. -/
def execDfh (s : State) : Host.Outcome State Fault Refusal :=
  s.commit do
    let b ← s.blockByte
    .ok ({ s with res := highHalf b }.accumulate b).advance

/-- `DFL` (R76). -/
def execDfl (s : State) : Host.Outcome State Fault Refusal :=
  s.commit do
    let b ← s.blockByte
    .ok ({ s with res := addLowHalf s.res b }.accumulate b).advance

/-- `CHK` (R77). -/
def execChk (s : State) : Host.Outcome State Fault Refusal :=
  s.commit do
    let e ← s.trailingByte
    if checksumCancels e s.csum then .ok s.complete else .error (.invalidChecksum e s.csum)

end Sys2Proof.Machine
end

