-- ==== Sys2Proof/Machine/Driver.lean ====
section
/-! DEFINITION. The driver sub-operations of `READ_PM25` (41_transaction.md R100, R101, R102). -/

namespace Sys2Proof.Machine

/-- `SEND_COMMAND` (41_transaction.md R100). Until the transport answers, the block waits in the call (R107). -/
def execSendCommand (s : State) : Host.Outcome State Fault Refusal :=
  let t := s.issue (.write REQ)
  match t.transport.writeAnswers with
  | [] => .next t
  | .ok :: rest => .next { t.writeAnswered REQ rest with ts := .awaitingResponse }
  | .err e n :: rest => .next ((t.writeAnswered (REQ.take n.val) rest).raise (.serialWriteFail e))

/-- `READ_RESPONSE` (41_transaction.md R101). Until the transport answers, the block waits in the call (R107). A short
delivery leaves the cells it does not reach as they were (93_implementation_defined.md U4). -/
def execReadResponse (s : State) : Host.Outcome State Fault Refusal :=
  let t := s.issue (.read RESP_LEN)
  match t.transport.readAnswers with
  | [] => .next t
  | .ok d :: rest => .next { t.readAnswered (t.rb.writeFrom 0 d.toList) rest with ts := .parsing }
  | .short k d :: rest =>
    .next { t.readAnswered (t.rb.writeFrom 0 (d.toList.take k.val)) rest with ts := .parsing }
  | .err e r :: rest => .next ((t.readAnswered (t.rb.writeFrom 0 r.toList) rest).raise (.serialReadFail e))

/-- The invocation of `PARSE` (41_transaction.md R102), which starts it without touching `OV`; the end of the `PARSE` ends the
transaction (log 1). Legal only when `PH = IDLE` (40_frame_codec.md R70). -/
def execParseInvoke (s : State) : Host.Outcome State Fault Refusal :=
  if s.ph = .idle then .next s.beginParse else .refused .overlappingStart

end Sys2Proof.Machine
end

