-- ==== Sys2Proof/Machine/HostOps.lean ====
section
/-! DEFINITION. The host operations: the start of `PARSE` (40_frame_codec.md R70) and of `READ_PM25` (41_transaction.md R103). -/

namespace Sys2Proof.Machine

/-- `PARSE` started by the host (40_frame_codec.md R70); refused while an operation is in progress. -/
def execParse (s : State) : Host.Outcome State Fault Refusal :=
  if s.quiet then .next s.clearOv.beginParse else .refused .overlappingStart

/-- The start of `READ_PM25` (41_transaction.md R103); its sub-operations follow, one a step, as `TS` selects them (R58).
Refused while an operation is in progress (R108). -/
def execReadPm25 (s : State) : Host.Outcome State Fault Refusal :=
  if s.quiet then .next { s.clearOv with reading := true } else .refused .overlappingStart

end Sys2Proof.Machine
end

