-- ==== Sys2Proof/Machine/Dispatch.lean ====
section
/-! DEFINITION. One arm per operation. -/

namespace Sys2Proof.Machine

def exec (i : Instr) (s : State) : Host.Outcome State Fault Refusal :=
  match i with
  | .hdr => Sys2Proof.Machine.execHdr s
  | .len => Sys2Proof.Machine.execLen s
  | .cmd => Sys2Proof.Machine.execCmd s
  | .dfn1 => Sys2Proof.Machine.execDfn1 s
  | .dfn2 => Sys2Proof.Machine.execDfn2 s
  | .dfh => Sys2Proof.Machine.execDfh s
  | .dfl => Sys2Proof.Machine.execDfl s
  | .dfn5 => Sys2Proof.Machine.execDfn5 s
  | .dfn6to7 => Sys2Proof.Machine.execDfn6to7 s
  | .dfn8to15 => Sys2Proof.Machine.execDfn8to15 s
  | .dfn16to31 => Sys2Proof.Machine.execDfn16to31 s
  | .chk => Sys2Proof.Machine.execChk s
  | .parse => Sys2Proof.Machine.execParse s
  | .readPm25 => Sys2Proof.Machine.execReadPm25 s
  | .sendCommand => Sys2Proof.Machine.execSendCommand s
  | .readResponse => Sys2Proof.Machine.execReadResponse s
  | .parseInvoke => Sys2Proof.Machine.execParseInvoke s

end Sys2Proof.Machine
end

