-- ==== Sys2Proof/Machine/Step.lean ====
section
/-! DEFINITION. One step of the machine (00_scope.md section 7, "step": one micro-operation of the codec, or one sub-operation
of the driver), and the placing of a word before it. -/

namespace Sys2Proof.Machine

/-- One step: the selected operation, run; an idle block whose host starts nothing stays as it is (log 3). -/
def step (s : State) : Host.Outcome State Fault Refusal :=
  match s.fetch with
  | none => .next s
  | some (i, t) => exec i t

/-- `s` with a table word placed where `step` selects its next operation (log 15). -/
def State.withFetchWord (s : State) (nbits w : Nat) : State := s.placeWord nbits w

end Sys2Proof.Machine
end

