-- ==== Sys2Proof/Machine/ClosedForm.lean ====
section
/-! DEFINITION. The closed form of `PARSE` (40_frame_codec.md R79): its outcome as a function of `RB` alone, a second
definition, independent of the micro-operations. -/

namespace Sys2Proof.Machine

/-- The sum modulo 256 of the first `n` bytes of `RB` (40_frame_codec.md R79, 30_encoding.md R55). -/
def Memory.sumFirst (m : Memory) : Nat → Byte
  | 0 => 0#8
  | n + 1 => csumAdd (m.sumFirst n) (m.byte n)

/-- `(if N >= 4 then RB[5] * 256 else 0) + (if N >= 5 then RB[6] else 0)` (40_frame_codec.md R79, R82, R83). -/
def Memory.measured (m : Memory) (n : Nat) : Measurement :=
  addLowHalf (if 4 ≤ n then highHalf (m.byte 5) else 0#16) (if 5 ≤ n then m.byte 6 else 0#8)

/-- `parse(RB)` (40_frame_codec.md R79). -/
def parseClosed (m : Memory) : OpOutcome :=
  let n := (m.byte 1).toNat
  if m.byte 0 ≠ HDR_RESP then .error (.invalidHeader (m.byte 0))
  else if 1 ≤ n ∧ m.byte 2 ≠ CMD_CODE then .error (.invalidCommandResponse (m.byte 2))
  else if N_MAX < n then .error (.malformedLength (m.byte 1))
  else if csumAdd (m.byte (2 + n)) (m.sumFirst (2 + n)) ≠ 0#8 then
    .error (.invalidChecksum (m.byte (2 + n)) (m.sumFirst (2 + n)))
  else .ok (m.measured n)

/-- How many micro-operations a `PARSE` on `RB` takes (40_frame_codec.md R78; 95_test_vectors.md section 2.2, "steps"). -/
def parseSteps (m : Memory) : Nat :=
  let n := (m.byte 1).toNat
  if m.byte 0 ≠ HDR_RESP then 1
  else if 1 ≤ n ∧ m.byte 2 ≠ CMD_CODE then 3
  else if N_MAX < n then 21
  else n + 3

end Sys2Proof.Machine
end

