-- ==== Sys2Proof/Safety.lean ====
section
/-! DEFINITION. What a sound state is: the invariants of the sequencer, of the codec and of the outcome; a host that serialises
its calls; a transport that keeps its contract. -/

namespace Sys2Proof.Machine

/-- The sequencer registers fit together: an ended operation leaves the block idle (70_reset_and_hazards.md R158,
41_transaction.md R104), `TS` moves only inside a `READ_PM25` (10_state.md R17), a `PARSE` inside one runs in `TS = Parsing`
(41_transaction.md R102), and a call is pending only in the sub-operation that makes it (R107). -/
structure SequencerSound (s : State) : Prop where
  endedIsIdle : s.ov = true → s.ph = .idle ∧ s.ts = .idle ∧ s.reading = false
  driverActive : s.ts ≠ .idle → s.reading = true
  codecInDriver : s.ph ≠ .idle → s.reading = true → s.ts = .parsing
  callPending : ∀ c, s.call = some c → s.reading = true ∧ s.ph = .idle ∧
    ((s.ts = .idle ∧ c = .write REQ) ∨ (s.ts = .awaitingResponse ∧ c = .read RESP_LEN))

/-- The codec registers after the `LEN` micro-operation and `I` block bytes: what `LEN`, `CSUM` and `RES` hold
(40_frame_codec.md R72 to R76, R86), the checks passed so far, and the bound of `I` (10_state.md R15). -/
structure BlockSummed (s : State) : Prop where
  header : s.rb.byte 0 = HDR_RESP
  latched : s.len = s.rb.byte 1
  bounded : s.i.toNat ≤ 18
  echo : 1 ≤ s.i.toNat → s.rb.byte 2 = CMD_CODE
  summed : s.csum = s.rb.sumFirst (2 + s.i.toNat)
  assembled : s.res = s.rb.measured s.i.toNat

/-- The codec registers in each phase of a `PARSE` (40_frame_codec.md R78). -/
def CodecSound (s : State) : Prop :=
  match s.ph with
  | .idle => True
  | .hdr => s.i = 0#5 ∧ s.res = 0#16
  | .len => s.i = 0#5 ∧ s.res = 0#16 ∧ s.rb.byte 0 = HDR_RESP
  | .data => s.i.toNat < s.len.toNat ∧ BlockSummed s
  | .chk => s.i.toNat = s.len.toNat ∧ BlockSummed s

/-- While the outcome is valid and `Ok`, `RES` holds its measurement (10_state.md R18, R19). -/
def OutcomeSound (s : State) : Prop := s.ov = true → ∀ v, s.outcome = .ok v → s.res = v

/-- A sound state. -/
structure Sound (s : State) : Prop where
  memory : s.rb.wf = true
  sequencer : SequencerSound s
  codec : CodecSound s
  outcome : OutcomeSound s

/-- `n` steps, stopping at the first fault or refusal. -/
def runSteps : Nat → State → Host.Outcome State Fault Refusal
  | 0, s => .next s
  | n + 1, s =>
    match step s with
    | .next t => runSteps n t
    | .fault r => .fault r
    | .refused r => .refused r

/-- The host serialises its calls (41_transaction.md R108, 70_reset_and_hazards.md R153). -/
def State.serialised (s : State) : Prop := ∀ h ∈ s.host, h.waits = true

/-- The transport keeps the contract of 41_transaction.md R106: it reports success only for a complete transfer. -/
def State.contractKept (s : State) : Prop := ∀ k d, ReadAnswer.short k d ∉ s.transport.readAnswers

end Sys2Proof.Machine
end

