-- ==== Sys2Proof/Certificates/Slice0/Obligations.lean ====
section
/-! DEFINITION. The statements for the provers, from the numbered rules of spec/. -/

open Sys2Proof Sys2Proof.Machine

/-! ### Encoding -/

/-- 30_encoding.md R57, R58: words written out from the tables select the operations they stand for; the driver code 0b11 and
words too wide for their format select none (10_state.md R17). -/
def Obligations.WordsSelectTheirOperations : Prop :=
  decode .pos 0b0000000 = .ok .hdr ∧ decode .pos 0b0100000 = .ok .len ∧ decode .pos 0b1000000 = .ok .cmd ∧
  decode .pos 0b1000001 = .ok .dfn1 ∧ decode .pos 0b1000010 = .ok .dfn2 ∧ decode .pos 0b1000011 = .ok .dfh ∧
  decode .pos 0b1000100 = .ok .dfl ∧ decode .pos 0b1000101 = .ok .dfn5 ∧ decode .pos 0b1000111 = .ok .dfn6to7 ∧
  decode .pos 0b1001111 = .ok .dfn8to15 ∧ decode .pos 0b1010000 = .ok .dfn16to31 ∧ decode .pos 0b1110001 = .ok .chk ∧
  decode .host 0b0 = .ok .parse ∧ decode .host 0b1 = .ok .readPm25 ∧
  decode .drv 0b00 = .ok .sendCommand ∧ decode .drv 0b01 = .ok .readResponse ∧ decode .drv 0b10 = .ok .parseInvoke ∧
  decode .drv 0b11 = .rejected .unusedDriverCode ∧ decode .pos 0b10000000 = .rejected .tooWide

/-- 30_encoding.md R57, R58: for every operation and every value of its don't-care bits, the word encoded decodes back; and a
word that decodes to an operation is that operation's encoding with the word's own don't-care bits, so no bit is dropped. -/
def Obligations.EncodingsDecodeBack : Prop :=
  (∀ (i : Instr) (x : BitVec 7), decode i.format (i.encodeWith x).toNat = .ok i) ∧
  (∀ (f : Format) (w : BitVec 7) (i : Instr), decode f w.toNat = .ok i → i.format = f ∧ i.encodeWith w = w)

/-- 30_encoding.md R57: the map from position words to micro-operations, as the table's ranges, and exactly one row matches
every position word. -/
def Obligations.PositionMapIsTheTable : Prop :=
  ∀ w : BitVec 7,
    decode .pos w.toNat = .ok (
      if w.toNat < 0x20 then .hdr
      else if w.toNat < 0x40 then .len
      else if w.toNat = 0x40 then .cmd
      else if w.toNat = 0x41 then .dfn1
      else if w.toNat = 0x42 then .dfn2
      else if w.toNat = 0x43 then .dfh
      else if w.toNat = 0x44 then .dfl
      else if w.toNat = 0x45 then .dfn5
      else if w.toNat ≤ 0x47 then .dfn6to7
      else if w.toNat ≤ 0x4F then .dfn8to15
      else if w.toNat ≤ 0x5F then .dfn16to31
      else .chk) ∧
    ∀ i j : Instr, i.matchesWord .pos w.toNat = true → j.matchesWord .pos w.toNat = true → i = j

/-- 30_encoding.md R56, R58, 10_state.md R17: the decoder answers an operation of the word's format exactly for the well-formed
words. -/
def Obligations.DecoderAcceptsExactlyWellFormedWords : Prop :=
  ∀ (f : Format) (w : Nat),
    (f.wellFormed w = true → ∃ i, decode f w = .ok i ∧ i.format = f) ∧
    (f.wellFormed w = false → ∃ r, decode f w = .rejected r)

/-- 10_state.md R16, 30_encoding.md R56: the codes of `PH`, the position word `{PH[1:0], I}`, and `PH[2] = 1` exactly while a
`PARSE` is in progress. R56 defines the word only while `PH[2] = 1`: what the first clause says of `IDLE` is the model's choice
(log 21). -/
def Obligations.PositionWordOfPhaseAndIndex : Prop :=
  (∀ s : State, s.pw.toNat = s.ph.code.toNat % 4 * 32 + s.i.toNat) ∧
  (∀ p : Phase, p.code.getLsbD 2 = true ↔ p ≠ .idle) ∧
  Phase.idle.code = 0b000#3 ∧ Phase.hdr.code = 0b100#3 ∧ Phase.len.code = 0b101#3 ∧ Phase.data.code = 0b110#3 ∧
  Phase.chk.code = 0b111#3

/-! ### Memory and arithmetic -/

/-- 20_memory.md R31: a read of an offset up to 19 answers the cell, a read of an offset from 20 on raises
`MalformedLength(LEN)`. -/
def Obligations.MemReadIsBoundChecked : Prop :=
  ∀ (s : State) (a : BitVec 9),
    (a.toNat ≤ 19 → s.memRead a = .ok (s.rb.byte a.toNat) ∧ s.rb.read? a.toNat = some (s.rb.byte a.toNat)) ∧
    (20 ≤ a.toNat → s.memRead a = .error (.malformedLength s.len) ∧ s.rb.read? a.toNat = none)

/-- 30_encoding.md R54: the two micro-operations assemble the 16-bit value with DF3 high and DF4 low, and nothing wraps. -/
def Obligations.MeasurementIsBigEndian : Prop :=
  ∀ h l : BitVec 8,
    addLowHalf (highHalf h) l = h ++ l ∧ (addLowHalf (highHalf h) l).toNat = h.toNat * 256 + l.toNat

/-- 30_encoding.md R55: the checksum byte `(256 - S) mod 256` is the one byte that cancels the sum `S`. -/
def Obligations.ChecksumByteIsTheOneThatCancels : Prop :=
  ∀ c e : BitVec 8, checksumCancels e c = true ↔ e = checksumByte c

/-- 20_memory.md R36, 10_state.md R10: no operation but `READ_RESPONSE` writes `RB`. -/
def Obligations.OnlyReadResponseWritesRb : Prop :=
  ∀ (i : Instr) (s t : State), i ≠ .readResponse → exec i s = .next t → t.rb = s.rb

/-! ### The micro-operations -/

/-- 40_frame_codec.md R71 with 60_exceptions.md R121, R128: `HDR`, its encoding `00xxxxx` and its effect. -/
def Obligations.HdrChecksTheHeader : Prop :=
  (∀ w : BitVec 7, w.extractLsb' 5 2 = 0b00#2 → decode .pos w.toNat = .ok .hdr) ∧
  ∀ s : State,
    (s.rb.byte 0 = 0x16#8 → exec .hdr s = .next { s with ph := .len, i := 0#5 }) ∧
    (s.rb.byte 0 ≠ 0x16#8 →
      exec .hdr s = .next { s with
        outcome := .error (.invalidHeader (s.rb.byte 0)), ph := .idle, ts := .idle, reading := false, ov := true })

/-- 40_frame_codec.md R72: `LEN`, its encoding `01xxxxx` and its effect on every state. -/
def Obligations.LenLatchesAndInitialises : Prop :=
  (∀ w : BitVec 7, w.extractLsb' 5 2 = 0b01#2 → decode .pos w.toNat = .ok .len) ∧
  ∀ s : State,
    exec .len s = .next { s with
      len := s.rb.byte 1
      csum := s.rb.byte 0 + s.rb.byte 1
      i := 0#5
      ph := if s.rb.byte 1 = 0#8 then .chk else .data }

/-- 40_frame_codec.md R73 with 60_exceptions.md R122, R128: `CMD`; it is selected at `I = 0`, where the offset is 2. -/
def Obligations.CmdChecksTheEcho : Prop :=
  ∀ s : State, s.i.toNat ≤ 17 →
    (s.rb.byte (2 + s.i.toNat) = 0x0b#8 →
      exec .cmd s = .next { s with
        csum := s.csum + 0x0b#8
        i := s.i + 1#5
        ph := if (s.i + 1#5).setWidth 8 = s.len then .chk else .data }) ∧
    (s.rb.byte (2 + s.i.toNat) ≠ 0x0b#8 →
      exec .cmd s = .next { s with
        outcome := .error (.invalidCommandResponse (s.rb.byte (2 + s.i.toNat)))
        ph := .idle, ts := .idle, reading := false, ov := true })

/-- 40_frame_codec.md R74 with 60_exceptions.md R126, R128: the six rows of `DFN`. -/
def Obligations.DfnAccumulates : Prop :=
  ∀ i ∈ [Instr.dfn1, .dfn2, .dfn5, .dfn6to7, .dfn8to15, .dfn16to31], ∀ s : State,
    (s.i.toNat ≤ 17 →
      exec i s = .next { s with
        csum := s.csum + s.rb.byte (2 + s.i.toNat)
        i := s.i + 1#5
        ph := if (s.i + 1#5).setWidth 8 = s.len then .chk else .data }) ∧
    (18 ≤ s.i.toNat →
      exec i s = .next { s with
        outcome := .error (.malformedLength s.len), ph := .idle, ts := .idle, reading := false, ov := true })

/-- 40_frame_codec.md R75: `DFH`. -/
def Obligations.DfhSetsTheHighByte : Prop :=
  ∀ s : State, s.i.toNat ≤ 17 →
    exec .dfh s = .next { s with
      res := s.rb.byte (2 + s.i.toNat) ++ 0#8
      csum := s.csum + s.rb.byte (2 + s.i.toNat)
      i := s.i + 1#5
      ph := if (s.i + 1#5).setWidth 8 = s.len then .chk else .data }

/-- 40_frame_codec.md R76: `DFL`. -/
def Obligations.DflAddsTheLowByte : Prop :=
  ∀ s : State, s.i.toNat ≤ 17 →
    exec .dfl s = .next { s with
      res := s.res + (s.rb.byte (2 + s.i.toNat)).setWidth 16
      csum := s.csum + s.rb.byte (2 + s.i.toNat)
      i := s.i + 1#5
      ph := if (s.i + 1#5).setWidth 8 = s.len then .chk else .data }

/-- 20_memory.md R31: `CMD`, `DFH` and `DFL` in a state in which their cell does not exist (no run reaches one; a
micro-operation does not check its own position, log 12). -/
def Obligations.BlockReadsBeyondTheBufferRaise : Prop :=
  ∀ i ∈ [Instr.cmd, .dfh, .dfl], ∀ s : State, 18 ≤ s.i.toNat →
    exec i s = .next { s with
      outcome := .error (.malformedLength s.len), ph := .idle, ts := .idle, reading := false, ov := true }

/-- 40_frame_codec.md R77 with 41_transaction.md R102 and 60_exceptions.md R123, R126, R128: `CHK`. That the step of an `Ok` `CHK`
inside a `READ_PM25` also ends the transaction (`TS`, `reading`, `OV`) is the model's choice (log 1): R77 lists only `PH`,
`STATUS` and `OV` as written, and the spec leaves the cut between the steps open. -/
def Obligations.ChkVerifiesTheChecksum : Prop :=
  ∀ s : State,
    (s.len.toNat ≤ 17 → s.rb.byte (2 + s.len.toNat) + s.csum = 0#8 →
      exec .chk s = .next { s with
        outcome := .ok s.res
        ph := .idle
        ts := if s.reading then .idle else s.ts
        reading := false
        ov := true }) ∧
    (s.len.toNat ≤ 17 → s.rb.byte (2 + s.len.toNat) + s.csum ≠ 0#8 →
      exec .chk s = .next { s with
        outcome := .error (.invalidChecksum (s.rb.byte (2 + s.len.toNat)) s.csum)
        ph := .idle, ts := .idle, reading := false, ov := true }) ∧
    (18 ≤ s.len.toNat →
      exec .chk s = .next { s with
        outcome := .error (.malformedLength s.len), ph := .idle, ts := .idle, reading := false, ov := true })

/-- 40_frame_codec.md R75, R76, 10_state.md R14: in a sound `DATA` step at loop index 3 the prior `RES` is 0; at loop index 4 it is
`{DF3, 0x00}`, and `DFL` leaves `{DF3, DF4}`. -/
def Obligations.FieldsAssembleInPlace : Prop :=
  ∀ s : State, CodecSound s → s.ph = .data →
    (s.i = 3#5 → s.res = 0#16) ∧
    (s.i = 4#5 → s.res = s.rb.byte 5 ++ 0#8 ∧ ∃ t, exec .dfl s = .next t ∧ t.res = s.rb.byte 5 ++ s.rb.byte 6)

/-- 40_frame_codec.md R71 to R77, the frame of the micro-operations: no cell of `RB`, no transport, host, or pending call changes;
`LEN` is written by `LEN` alone, `RES` by `DFH` and `DFL` alone, `CSUM` and `I` not by `CHK`, `CSUM` not by `HDR`; and unless
the `PARSE` ends, `OV`, the outcome, `TS` and the driver's progress stay. -/
def Obligations.MicroOperationFrame : Prop :=
  ∀ i ∈ [Instr.hdr, .len, .cmd, .dfn1, .dfn2, .dfh, .dfl, .dfn5, .dfn6to7, .dfn8to15, .dfn16to31, .chk], ∀ s t : State,
    exec i s = .next t →
      (∀ a, t.rb.read? a = s.rb.read? a) ∧ t.rb = s.rb ∧
      t.transport = s.transport ∧ t.host = s.host ∧ t.call = s.call ∧
      (i ≠ .len → t.len = s.len) ∧
      (i ≠ .dfh → i ≠ .dfl → t.res = s.res) ∧
      (i = .hdr ∨ i = .chk → t.csum = s.csum) ∧
      (i = .chk → t.i = s.i) ∧
      (t.ph ≠ .idle → t.ov = s.ov ∧ t.outcome = s.outcome ∧ t.ts = s.ts ∧ t.reading = s.reading)

/-- 60_exceptions.md R128: errors are precise. A micro-operation that ends with an error has written the outcome, `PH`, `TS`,
`OV` and the end of the operation, and nothing else. -/
def Obligations.RaisingMicroOperationWritesNothingElse : Prop :=
  ∀ i ∈ [Instr.hdr, .len, .cmd, .dfn1, .dfn2, .dfh, .dfl, .dfn5, .dfn6to7, .dfn8to15, .dfn16to31, .chk],
    ∀ (s t : State) (k : ErrorKind), s.outcome ≠ .error k → exec i s = .next t → t.outcome = .error k →
      t = { s with outcome := .error k, ph := .idle, ts := .idle, reading := false, ov := true }

/-- 40_frame_codec.md R80: no content of `RB` and no state makes a micro-operation fault, hang or be refused. -/
def Obligations.MicroOperationsAlwaysComplete : Prop :=
  ∀ i ∈ [Instr.hdr, .len, .cmd, .dfn1, .dfn2, .dfh, .dfl, .dfn5, .dfn6to7, .dfn8to15, .dfn16to31, .chk],
    ∀ s : State, ∃ t, exec i s = .next t

/-! ### Host operations and the driver -/

/-- 40_frame_codec.md R70: the start of a `PARSE`, by the host and by the driver; elsewhere the model refuses. -/
def Obligations.ParseStarts : Prop :=
  ∀ s : State,
    (s.ph = .idle → s.ts = .idle → s.reading = false →
      exec .parse s = .next { s with ov := false, res := 0#16, ph := .hdr, i := 0#5 }) ∧
    (s.ph = .idle → exec .parseInvoke s = .next { s with res := 0#16, ph := .hdr, i := 0#5 }) ∧
    (s.ph ≠ .idle ∨ s.ts ≠ .idle ∨ s.reading = true → exec .parse s = .refused .overlappingStart) ∧
    (s.ph ≠ .idle → exec .parseInvoke s = .refused .overlappingStart)

/-- 41_transaction.md R103, R108, 70_reset_and_hazards.md R153: the start of `READ_PM25`; it clears `OV`, and the driver's progress
begins (log 2); started while another operation is in progress it is refused. -/
def Obligations.ReadPm25Starts : Prop :=
  ∀ s : State,
    (s.ph = .idle → s.ts = .idle → s.reading = false →
      exec .readPm25 s = .next { s with ov := false, reading := true }) ∧
    (s.ph ≠ .idle ∨ s.ts ≠ .idle ∨ s.reading = true → exec .readPm25 s = .refused .overlappingStart)

/-- 41_transaction.md R100, R106, R109: `SEND_COMMAND` once the transport has answered. The call is issued unless the block is
already blocked in it; the request bytes, or on an error the prefix that left, are appended to the stream. The log of
calls and the pending call are the model's (log 4). -/
def Obligations.SendCommandSendsTheRequest : Prop :=
  ∀ (s : State) (rest : List WriteAnswer),
    (s.transport.writeAnswers = .ok :: rest →
      exec .sendCommand s = .next { s with
        ts := .awaitingResponse
        call := none
        transport := {
          writeAnswers := rest
          readAnswers := s.transport.readAnswers
          sent := s.transport.sent ++ [0x11#8, 0x02#8, 0x0b#8, 0x01#8, 0xe1#8]
          calls := if s.call = some (.write [0x11#8, 0x02#8, 0x0b#8, 0x01#8, 0xe1#8]) then s.transport.calls
            else s.transport.calls ++ [.write [0x11#8, 0x02#8, 0x0b#8, 0x01#8, 0xe1#8]] } }) ∧
    (∀ (e : TErr) (n : Fin 6), s.transport.writeAnswers = .err e n :: rest →
      exec .sendCommand s = .next { s with
        outcome := .error (.serialWriteFail e)
        ph := .idle, ts := .idle, reading := false, ov := true
        call := none
        transport := {
          writeAnswers := rest
          readAnswers := s.transport.readAnswers
          sent := s.transport.sent ++ [0x11#8, 0x02#8, 0x0b#8, 0x01#8, 0xe1#8].take n.val
          calls := if s.call = some (.write [0x11#8, 0x02#8, 0x0b#8, 0x01#8, 0xe1#8]) then s.transport.calls
            else s.transport.calls ++ [.write [0x11#8, 0x02#8, 0x0b#8, 0x01#8, 0xe1#8]] } })

/-- 41_transaction.md R101, R106, R109, 20_memory.md R33: `READ_RESPONSE` once the transport has answered with a delivery or an
error: byte k of the delivery is at offset k; after an error every cell holds whatever the transport left (log 5). The log of calls
and the pending call are the model's (log 4). -/
def Obligations.ReadResponseFillsTheBuffer : Prop :=
  ∀ (s : State) (rest : List ReadAnswer), s.rb.wf = true →
    (∀ d : Frame, s.transport.readAnswers = .ok d :: rest →
      ∃ m : Memory, exec .readResponse s = .next { s with
        rb := m
        ts := .parsing
        call := none
        transport := {
          writeAnswers := s.transport.writeAnswers
          readAnswers := rest
          sent := s.transport.sent
          calls := if s.call = some (.read 20) then s.transport.calls else s.transport.calls ++ [.read 20] } } ∧
        m.wf = true ∧ ∀ k : Fin 20, m.read? k.val = some d[k]) ∧
    (∀ (e : TErr) (r : Frame), s.transport.readAnswers = .err e r :: rest →
      ∃ m : Memory, exec .readResponse s = .next { s with
        rb := m
        outcome := .error (.serialReadFail e)
        ph := .idle, ts := .idle, reading := false, ov := true
        call := none
        transport := {
          writeAnswers := s.transport.writeAnswers
          readAnswers := rest
          sent := s.transport.sent
          calls := if s.call = some (.read 20) then s.transport.calls else s.transport.calls ++ [.read 20] } } ∧
        m.wf = true ∧ ∀ k : Fin 20, m.read? k.val = some r[k])

/-- 93_implementation_defined.md U4 (log 6): after a short delivery of k bytes, cells 0 to k-1 hold the delivered bytes, cells k
to 19 keep their content, and the driver goes on to `PARSE`. -/
def Obligations.ShortDeliveryLeavesTheRest : Prop :=
  ∀ (s : State) (rest : List ReadAnswer) (k : Fin 20) (d : Frame), s.rb.wf = true →
    s.transport.readAnswers = .short k d :: rest →
      ∃ t, exec .readResponse s = .next t ∧ t.ts = .parsing ∧ t.ov = s.ov ∧
        ∀ j : Fin 20, t.rb.read? j.val = if j < k then some d[j] else s.rb.read? j.val

/-- 41_transaction.md R107, R106: while the transport has not answered, `SEND_COMMAND` and `READ_RESPONSE` leave the block blocked
in the one call they issue, with every register as it was, and running them again changes nothing. That a block in this wait
still answers a next state, the same one again, and that the call is logged once and held in `call`, is the model's choice
(log 4): 93_implementation_defined.md U10 says that no step is enabled. -/
def Obligations.UnansweredCallBlocks : Prop :=
  ∀ s : State,
    (s.transport.writeAnswers = [] →
      ∃ t, exec .sendCommand s = .next t ∧ exec .sendCommand t = .next t ∧
        t = { s with call := some (.write REQ), transport := t.transport } ∧
        t.transport = { s.transport with calls := t.transport.calls } ∧
        t.transport.calls = if s.call = some (.write REQ) then s.transport.calls else s.transport.calls ++ [.write REQ]) ∧
    (s.transport.readAnswers = [] →
      ∃ t, exec .readResponse s = .next t ∧ exec .readResponse t = .next t ∧
        t = { s with call := some (.read 20), transport := t.transport } ∧
        t.transport = { s.transport with calls := t.transport.calls } ∧
        t.transport.calls = if s.call = some (.read 20) then s.transport.calls else s.transport.calls ++ [.read 20])

/-- 41_transaction.md R107: if the transport never answers, the `READ_PM25` never ends: after any number of steps `OV` is 0 and
`TS` is `Idle` (write pending) or `AwaitingResponse` (read pending). That a block in the wait has steps at all is the model's
choice (log 4). -/
def Obligations.UnansweredReadPm25NeverEnds : Prop :=
  ∀ (s : State) (n : Nat), s.serialised → s.ph = .idle → s.reading = true → s.ov = false →
    (s.ts = .idle → s.transport.writeAnswers = [] →
      ∃ t, runSteps n s = .next t ∧ t.ov = false ∧ t.ts = .idle ∧ t.reading = true ∧ t.rb = s.rb) ∧
    (s.ts = .awaitingResponse → s.transport.readAnswers = [] →
      ∃ t, runSteps n s = .next t ∧ t.ov = false ∧ t.ts = .awaitingResponse ∧ t.reading = true ∧ t.rb = s.rb)

/-- 40_frame_codec.md R70, 41_transaction.md R100, R102, R103, the frame of the operations that store nothing: every byte of `RB`
reads as before; `LEN` and `CSUM` stay; the host's later starts stay; `RES` and `I` change only at the start of a `PARSE`;
only `SEND_COMMAND` touches the transport, and never its read answers. -/
def Obligations.StartAndSendFrame : Prop :=
  ∀ i ∈ [Instr.parse, .readPm25, .parseInvoke, .sendCommand], ∀ s t : State, exec i s = .next t →
    (∀ a, t.rb.read? a = s.rb.read? a) ∧ t.len = s.len ∧ t.csum = s.csum ∧ t.host = s.host ∧
    (i = .readPm25 ∨ i = .sendCommand → t.res = s.res ∧ t.i = s.i) ∧
    (i = .readPm25 → t.ph = s.ph) ∧
    (i ≠ .sendCommand → t.transport = s.transport ∧ t.call = s.call ∧ t.outcome = s.outcome ∧ t.ts = s.ts) ∧
    (i = .parseInvoke → t.ov = s.ov ∧ t.reading = s.reading) ∧
    t.transport.readAnswers = s.transport.readAnswers

/-- 41_transaction.md R101, the frame of `READ_RESPONSE`: the codec registers, the host, the outgoing stream and the write answers
stay; a short delivery of k bytes (log 6) leaves the cells at k to 19; while it waits (log 4) no cell changes. -/
def Obligations.ReadResponseFrame : Prop :=
  ∀ s t : State, exec .readResponse s = .next t →
    t.len = s.len ∧ t.csum = s.csum ∧ t.res = s.res ∧ t.i = s.i ∧ t.host = s.host ∧
    t.transport.sent = s.transport.sent ∧ t.transport.writeAnswers = s.transport.writeAnswers ∧
    t.rb.init = s.rb.init ∧
    (∀ (k : Fin 20) (d : Frame) (rest : List ReadAnswer), s.rb.wf = true → s.transport.readAnswers = .short k d :: rest →
      ∀ a : Fin 20, k ≤ a → t.rb.read? a.val = s.rb.read? a.val) ∧
    (s.transport.readAnswers = [] → ∀ a, t.rb.read? a = s.rb.read? a)

/-! ### The step -/

/-- 40_frame_codec.md R78, 30_encoding.md R58: a step runs the operation that the host's start, the position word or `TS` selects,
on the state as it is. That a start of the host comes before any micro-operation or sub-operation and is taken off the
host's list, and that the step of an idle block whose host starts nothing answers the same state, is the model's choice
(log 3); no rule says it. -/
def Obligations.StepRunsTheSelectedOperation : Prop :=
  ∀ s : State,
    (∀ op i, s.hostStart = some op → decode .host op.code.toNat = .ok i →
      i.wellFormed = true ∧ step s = exec i { s with host := s.host.tail }) ∧
    (∀ i, s.hostStart = none → s.ph ≠ .idle → decode .pos s.pw.toNat = .ok i → i.wellFormed = true ∧ step s = exec i s) ∧
    (∀ i, s.hostStart = none → s.ph = .idle → s.reading = true → decode .drv s.ts.code.toNat = .ok i →
      i.wellFormed = true ∧ step s = exec i s) ∧
    (s.hostStart = none → s.ph = .idle → s.reading = false → step s = .next s)

/-- 40_frame_codec.md R78: every position of a `PARSE`, every `TS` and every `OP` selects an operation: no state is without one to
run but an idle block. -/
def Obligations.EveryPositionSelectsAnOperation : Prop :=
  ∀ s : State,
    (s.ph ≠ .idle → ∃ i, decode .pos s.pw.toNat = .ok i) ∧ (∃ i, decode .drv s.ts.code.toNat = .ok i) ∧
    ∀ op : HostOp, ∃ i, decode .host op.code.toNat = .ok i

/-- 41_transaction.md R108, 40_frame_codec.md R80: with a host that serialises its calls, every step has a next state, and the host
goes on serialising. That an idle block and one that waits in a call answer a next state too is the model's choice (log 3, log 4). -/
def Obligations.SerialisedHostIsNeverRefused : Prop :=
  ∀ s : State, s.serialised → ∃ t, step s = .next t ∧ t.serialised

/-- 10_state.md R18, 60_exceptions.md R130: an outcome stays, with everything else, until the next host operation starts. That the
idle block has a step, which answers the same state, is the model's choice (log 3). -/
def Obligations.OutcomeStaysUntilTheNextStart : Prop :=
  ∀ s : State, SequencerSound s → s.ov = true → s.hostStart = none → step s = .next s

/-- 20_memory.md R30, R36 and this model's canonical form of `RB` (log 8): every step keeps it. -/
def Obligations.StepKeepsRbCanonical : Prop :=
  ∀ s t : State, s.rb.wf = true → step s = .next t → t.rb.wf = true ∧ t.rb.init = s.rb.init

/-- 70_reset_and_hazards.md R158, 41_transaction.md R102, R104, R107, 10_state.md R17: every step keeps the sequencer sound. The fields
`reading` and `call` are the model's (log 2, log 4). -/
def Obligations.StepKeepsSequencerSound : Prop :=
  ∀ s t : State, SequencerSound s → step s = .next t → SequencerSound t

/-- 40_frame_codec.md R72 to R78, R86, 10_state.md R12, R13, R14, R15: every step keeps what `LEN`, `CSUM`, `RES` and `I` hold in each
phase. -/
def Obligations.StepKeepsCodecSound : Prop :=
  ∀ s t : State, CodecSound s → step s = .next t → CodecSound t

/-- 10_state.md R18, R19: every step from a sound sequencer keeps `RES` equal to the measurement of a valid `Ok` outcome. -/
def Obligations.StepKeepsOutcomeSound : Prop :=
  ∀ s t : State, SequencerSound s → OutcomeSound s → step s = .next t → OutcomeSound t

/-- Reset is sound, for every choice of the unspecified values (10_state.md R26; log 8, log 9), every transport and every host. -/
def Obligations.ResetIsSound : Prop :=
  ∀ (c : ResetChoice) (th : Transport) (h : List HostStart), Sound (State.resetWith c th h)

/-- 10_state.md R26, 70_reset_and_hazards.md R150: what reset leaves, for every choice of what the spec leaves unspecified. -/
def Obligations.ResetLeaves : Prop :=
  ∀ (c : ResetChoice) (th : Transport) (h : List HostStart),
    (State.resetWith c th h).ph = .idle ∧ (State.resetWith c th h).ts = .idle ∧ (State.resetWith c th h).ov = false ∧
    REQ = [0x11#8, 0x02#8, 0x0b#8, 0x01#8, 0xe1#8] ∧
    (∀ a : Fin 20, (State.resetWith c th h).rb.read? a.val = some c.rbInit[a]) ∧
    (State.resetWith c th h).transport = th ∧
    State.reset = State.resetWith .zero .silent []

/-! ### Whole operations -/

/-- 40_frame_codec.md R79, R78: a `PARSE` started by the host, run step by step, ends after the stated number of micro-operations
with the outcome the closed form gives for `RB`, which it leaves as it was; an `Ok` one takes `LEN + 3`, any at most 21. -/
def Obligations.ParseRunGivesTheClosedForm : Prop :=
  ∀ s p : State, s.serialised → exec .parse s = .next p →
    ∃ t, runSteps (parseSteps s.rb) p = .next t ∧ t.ov = true ∧ t.ph = .idle ∧ t.ts = .idle ∧
      t.outcome = parseClosed s.rb ∧ t.rb = s.rb ∧
      parseSteps s.rb ≤ 21 ∧
      (∀ n u, n < parseSteps s.rb → runSteps n p = .next u → u.ov = false) ∧
      ∀ v, parseClosed s.rb = .ok v → t.res = v ∧ parseSteps s.rb = (s.rb.byte 1).toNat + 3

/-- 41_transaction.md R100 to R105, 40_frame_codec.md R79: a `READ_PM25` whose transport accepts the request and delivers the frame `d`
ends with the closed form's outcome for `d`, having made exactly one write and one read. That the invocation of `PARSE` is
one of the three steps before the micro-operations is the model's choice (log 1): X1 of 95_test_vectors.md counts no step
for it. -/
def Obligations.ReadPm25RunGivesTheClosedForm : Prop :=
  ∀ (s p : State) (d : Frame) (ws : List WriteAnswer) (rs : List ReadAnswer),
    s.serialised → s.rb.wf = true → s.call = none → exec .readPm25 s = .next p →
    s.transport.writeAnswers = .ok :: ws → s.transport.readAnswers = .ok d :: rs →
    ∃ (t : State) (m : Memory), (∀ k : Fin 20, m.read? k.val = some d[k]) ∧
      runSteps (parseSteps m + 3) p = .next t ∧ t.ov = true ∧ t.ph = .idle ∧ t.ts = .idle ∧ t.reading = false ∧
      t.outcome = parseClosed m ∧ t.rb = m ∧
      t.transport = {
        writeAnswers := ws
        readAnswers := rs
        sent := s.transport.sent ++ [0x11#8, 0x02#8, 0x0b#8, 0x01#8, 0xe1#8]
        calls := s.transport.calls ++ [.write [0x11#8, 0x02#8, 0x0b#8, 0x01#8, 0xe1#8], .read 20] }

/-- 41_transaction.md R110: if the write fails, the `READ_PM25` ends with `SerialWriteFail`, no read is issued and `RB` and the codec
registers are not written. -/
def Obligations.FailedWriteEndsWithoutARead : Prop :=
  ∀ (s p : State) (e : TErr) (n : Fin 6) (ws : List WriteAnswer),
    s.serialised → s.call = none → exec .readPm25 s = .next p → s.transport.writeAnswers = .err e n :: ws →
    ∃ t, runSteps 1 p = .next t ∧ t.ov = true ∧ t.ph = .idle ∧ t.ts = .idle ∧ t.reading = false ∧
      t.outcome = .error (.serialWriteFail e) ∧ t.rb = s.rb ∧
      t.len = s.len ∧ t.csum = s.csum ∧ t.res = s.res ∧ t.i = s.i ∧
      t.transport.calls = s.transport.calls ++ [.write [0x11#8, 0x02#8, 0x0b#8, 0x01#8, 0xe1#8]]

/-- 41_transaction.md R111: if the read fails, the `READ_PM25` ends with `SerialReadFail`, no micro-operation runs and the codec
registers keep what they held. -/
def Obligations.FailedReadEndsWithoutAParse : Prop :=
  ∀ (s p : State) (e : TErr) (r : Frame) (ws : List WriteAnswer) (rs : List ReadAnswer),
    s.serialised → s.call = none → exec .readPm25 s = .next p →
    s.transport.writeAnswers = .ok :: ws → s.transport.readAnswers = .err e r :: rs →
    ∃ t, runSteps 2 p = .next t ∧ t.ov = true ∧ t.ph = .idle ∧ t.ts = .idle ∧ t.reading = false ∧
      t.outcome = .error (.serialReadFail e) ∧ t.len = s.len ∧ t.csum = s.csum ∧ t.res = s.res ∧ t.i = s.i ∧
      t.transport.calls =
        s.transport.calls ++ [.write [0x11#8, 0x02#8, 0x0b#8, 0x01#8, 0xe1#8], .read 20]

/-! ### The frame -/

/-- 20_memory.md R37, 40_frame_codec.md R84: the outcome of a `PARSE` depends on the cells at offsets 0 to 2+N alone: a buffer that
agrees with `m` there, whatever its other cells, has the same outcome. -/
def Obligations.CellsAfterTheFrameDoNotMatter : Prop :=
  ∀ m m' : Memory, (∀ a, a ≤ 2 + (m.byte 1).toNat → a < 20 → m'.byte a = m.byte a) → parseClosed m' = parseClosed m

/-- 40_frame_codec.md R81: two buffers that differ only in DF1, DF2, DF5 to DF16 and the checksum byte, and whose checksums both
verify, have the same `Ok` value. -/
def Obligations.UnusedBytesDoNotMatter : Prop :=
  ∀ (m m' : Memory) (v v' : Measurement),
    (∀ a ∈ [0, 1, 2, 5, 6], a < 2 + (m.byte 1).toNat → m'.byte a = m.byte a) → m'.byte 1 = m.byte 1 →
    parseClosed m = .ok v → parseClosed m' = .ok v' → v' = v

/-- 40_frame_codec.md R88, R79, R77: a `PARSE` is `Ok` exactly when the header and the echo (where there is one) are right, the frame fits,
and its `3 + N` bytes sum to 0 modulo 256. -/
def Obligations.OkExactlyWhenTheFrameSumsToZero : Prop :=
  ∀ (m : Memory) (v : Measurement),
    parseClosed m = .ok v ↔
      m.byte 0 = 0x16#8 ∧ (1 ≤ (m.byte 1).toNat → m.byte 2 = 0x0b#8) ∧ (m.byte 1).toNat ≤ 17 ∧
      m.sumFirst (3 + (m.byte 1).toNat) = 0#8 ∧ v = m.measured (m.byte 1).toNat

/-- 40_frame_codec.md R82: the zero-length frame. -/
def Obligations.ZeroLengthFrame : Prop :=
  ∀ m : Memory, m.byte 0 = 0x16#8 → m.byte 1 = 0x00#8 →
    (m.byte 2 = 0xEA#8 → parseClosed m = .ok 0#16) ∧
    (m.byte 2 ≠ 0xEA#8 → parseClosed m = .error (.invalidChecksum (m.byte 2) 0x16#8))

/-- 40_frame_codec.md R83, 30_encoding.md R54: what an `Ok` outcome holds for each length. -/
def Obligations.OkValueByLength : Prop :=
  ∀ (m : Memory) (v : Measurement), parseClosed m = .ok v →
    ((m.byte 1).toNat ≤ 3 → v = 0#16) ∧
    ((m.byte 1).toNat = 4 → v = m.byte 5 ++ 0#8) ∧
    (5 ≤ (m.byte 1).toNat → v = m.byte 5 ++ m.byte 6)

/-- 40_frame_codec.md R85, 60_exceptions.md R129, 30_encoding.md R59: the first failing check decides. -/
def Obligations.FirstFailingCheckDecides : Prop :=
  ∀ m : Memory,
    (m.byte 0 ≠ 0x16#8 → parseClosed m = .error (.invalidHeader (m.byte 0))) ∧
    (m.byte 0 = 0x16#8 → 1 ≤ (m.byte 1).toNat → m.byte 2 ≠ 0x0b#8 →
      parseClosed m = .error (.invalidCommandResponse (m.byte 2))) ∧
    (m.byte 0 = 0x16#8 → m.byte 2 = 0x0b#8 → 18 ≤ (m.byte 1).toNat →
      parseClosed m = .error (.malformedLength (m.byte 1)))

/-- 00_scope.md R7: no range check: every value 0 to 65535 is the measurement of some frame, returned as computed. -/
def Obligations.EveryMeasurementIsReturned : Prop :=
  ∀ v : Measurement, ∃ m : Memory, m.wf = true ∧ parseClosed m = .ok v

/-! ### What the host sees -/

/-- 70_reset_and_hazards.md R154, 10_state.md R19, R20, R21, 60_exceptions.md R120: while `OV = 1`, `STATUS` is the kind's code,
each information register the kind assigns is what it assigns, and `RES` is read of an `Ok` outcome only. That the host
reads no value of a register the kind does not assign, and none at all while `OV = 0`, where R154 says an unspecified value,
is the model's choice (log 10). -/
def Obligations.HostSeesTheOutcomeOnly : Prop :=
  ∀ s : State,
    (s.ov = false → s.hostSTATUS = none ∧ s.hostINFO0 = none ∧ s.hostINFO1 = none ∧ s.hostTERR = none ∧ s.hostRES = none) ∧
    (s.ov = true →
      (∀ v, s.outcome = .ok v →
        s.hostSTATUS = some 0#3 ∧ s.hostINFO0 = none ∧ s.hostINFO1 = none ∧ s.hostTERR = none ∧ s.hostRES = some s.res) ∧
      (∀ b, s.outcome = .error (.invalidHeader b) →
        s.hostSTATUS = some 1#3 ∧ s.hostINFO0 = some b ∧ s.hostINFO1 = none ∧ s.hostTERR = none ∧ s.hostRES = none) ∧
      (∀ b, s.outcome = .error (.invalidCommandResponse b) →
        s.hostSTATUS = some 2#3 ∧ s.hostINFO0 = some b ∧ s.hostINFO1 = none ∧ s.hostTERR = none ∧ s.hostRES = none) ∧
      (∀ e c, s.outcome = .error (.invalidChecksum e c) →
        s.hostSTATUS = some 3#3 ∧ s.hostINFO0 = some e ∧ s.hostINFO1 = some c ∧ s.hostTERR = none ∧ s.hostRES = none) ∧
      (∀ e, s.outcome = .error (.serialReadFail e) →
        s.hostSTATUS = some 4#3 ∧ s.hostINFO0 = none ∧ s.hostINFO1 = none ∧ s.hostTERR = some e ∧ s.hostRES = none) ∧
      (∀ e, s.outcome = .error (.serialWriteFail e) →
        s.hostSTATUS = some 5#3 ∧ s.hostINFO0 = none ∧ s.hostINFO1 = none ∧ s.hostTERR = some e ∧ s.hostRES = none) ∧
      (∀ n, s.outcome = .error (.malformedLength n) →
        s.hostSTATUS = some 6#3 ∧ s.hostINFO0 = some n ∧ s.hostINFO1 = none ∧ s.hostTERR = none ∧ s.hostRES = none))
end

