-- ==== Sys2Proof/Laws/Memory.lean ====
section
/-! SUPPORT. The laws of `RB`: a read after a write, the canonical form, and that the canonical form makes equal contents equal
data. -/

namespace Sys2Proof.Machine

@[simp] theorem Memory.write_init (m : Memory) (a : Nat) (v : Byte) : (m.write a v).init = m.init := by
  unfold Memory.write; split <;> rfl

@[simp] theorem Memory.write_unlisted (m : Memory) (a b : Nat) (v : Byte) :
    (m.write a v).unlisted b = m.unlisted b := by
  simp [Memory.unlisted]

@[simp] theorem Memory.writeFrom_init (m : Memory) (a : Nat) (vs : List Byte) : (m.writeFrom a vs).init = m.init := by
  induction vs generalizing m a with
  | nil => rfl
  | cons v vs ih => simp [Memory.writeFrom, ih]

theorem Memory.read?_of_lt {m : Memory} {a : Nat} (h : a < RESP_LEN) : m.read? a = some (m.byte a) := if_pos h

theorem Memory.read?_of_ge {m : Memory} {a : Nat} (h : RESP_LEN ≤ a) : m.read? a = none := if_neg (by omega)

/-- The tail of a canonical list is canonical, and its entries lie above. -/
theorem Memory.cellsWf_cons {m : Memory} {lo a : Nat} {v : Byte} {rest : List Host.Cell} :
    m.cellsWf lo ((a, v) :: rest) = true ↔
      lo ≤ a ∧ a < RESP_LEN ∧ v ≠ m.unlisted a ∧ m.cellsWf (a + 1) rest = true := by
  simp [Memory.cellsWf, and_assoc]

theorem Memory.cellsWf_mono {m : Memory} {lo lo' : Nat} {l : List Host.Cell} (h : m.cellsWf lo l = true) (hle : lo' ≤ lo) :
    m.cellsWf lo' l = true := by
  cases l with
  | nil => rfl
  | cons c rest =>
    obtain ⟨a, v⟩ := c
    rw [Memory.cellsWf_cons] at h ⊢
    exact ⟨by omega, h.2⟩

theorem Memory.cellsWf_congr {m m' : Memory} (hi : m.init = m'.init) (lo : Nat) (l : List Host.Cell) :
    m.cellsWf lo l = m'.cellsWf lo l := by
  induction l generalizing lo with
  | nil => rfl
  | cons c rest ih => obtain ⟨a, v⟩ := c; simp [Memory.cellsWf, Memory.unlisted, hi, ih]

/-- A canonical list holds no offset below its bound. -/
theorem Memory.lookup_below {m : Memory} {lo a : Nat} {l : List Host.Cell} (h : m.cellsWf lo l = true) (ha : a < lo) :
    l.lookup a = none := by
  induction l generalizing lo with
  | nil => rfl
  | cons c rest ih =>
    obtain ⟨b, w⟩ := c
    rw [Memory.cellsWf_cons] at h
    have hne : (a == b) = false := by simp; omega
    rw [List.lookup_cons, hne]
    exact ih h.2.2.2 (by omega)

theorem lookup_cellsInsert_same (a : Nat) (v : Byte) (l : List Host.Cell) : (cellsInsert a v l).lookup a = some v := by
  induction l with
  | nil => simp [cellsInsert]
  | cons c rest ih =>
    obtain ⟨b, w⟩ := c
    unfold cellsInsert
    by_cases h1 : a < b
    · simp [h1]
    · by_cases h2 : a = b
      · simp [h2]
      · have hne : (a == b) = false := by simp [h2]
        simp [h1, h2, List.lookup_cons, hne, ih]

theorem lookup_cellsInsert_other {a b : Nat} (h : b ≠ a) (v : Byte) (l : List Host.Cell) :
    (cellsInsert a v l).lookup b = l.lookup b := by
  have hba : (b == a) = false := by simp [h]
  induction l with
  | nil => simp [cellsInsert, List.lookup_cons, hba]
  | cons c rest ih =>
    obtain ⟨k, w⟩ := c
    unfold cellsInsert
    by_cases h1 : a < k
    · simp [h1, List.lookup_cons, hba]
    · by_cases h2 : a = k
      · subst h2; simp [List.lookup_cons, hba]
      · simp [h1, h2, List.lookup_cons, ih]

theorem lookup_cellsErase_same {m : Memory} {lo : Nat} (a : Nat) {l : List Host.Cell} (hw : m.cellsWf lo l = true) :
    (cellsErase a l).lookup a = none := by
  induction l generalizing lo with
  | nil => rfl
  | cons c rest ih =>
    obtain ⟨k, w⟩ := c
    rw [Memory.cellsWf_cons] at hw
    unfold cellsErase
    by_cases h2 : a = k
    · subst h2; simpa using Memory.lookup_below hw.2.2.2 (by omega)
    · have hne : (a == k) = false := by simp [h2]
      simp [h2, List.lookup_cons, hne, ih hw.2.2.2]

theorem lookup_cellsErase_other {a b : Nat} (h : b ≠ a) (l : List Host.Cell) : (cellsErase a l).lookup b = l.lookup b := by
  induction l with
  | nil => rfl
  | cons c rest ih =>
    obtain ⟨k, w⟩ := c
    unfold cellsErase
    by_cases h2 : a = k
    · subst h2
      have hba : (b == a) = false := by simp [h]
      simp [List.lookup_cons, hba]
    · simp [h2, List.lookup_cons, ih]

theorem Memory.cellsWf_insert {m : Memory} {lo a : Nat} {v : Byte} {l : List Host.Cell} (hw : m.cellsWf lo l = true)
    (hlo : lo ≤ a) (ha : a < RESP_LEN) (hv : v ≠ m.unlisted a) : m.cellsWf lo (cellsInsert a v l) = true := by
  induction l generalizing lo with
  | nil => simp only [cellsInsert, Memory.cellsWf_cons]; exact ⟨hlo, ha, hv, rfl⟩
  | cons c rest ih =>
    obtain ⟨k, w⟩ := c
    have hw' := Memory.cellsWf_cons.1 hw
    unfold cellsInsert
    by_cases h1 : a < k
    · simp only [h1, if_true, Memory.cellsWf_cons]
      exact ⟨hlo, ha, hv, by omega, hw'.2⟩
    · by_cases h2 : a = k
      · subst h2
        simp only [h1, if_false, if_true, Memory.cellsWf_cons]
        exact ⟨hlo, ha, hv, hw'.2.2.2⟩
      · simp only [h1, h2, if_false, Memory.cellsWf_cons]
        exact ⟨hw'.1, hw'.2.1, hw'.2.2.1, ih hw'.2.2.2 (by omega)⟩

theorem Memory.cellsWf_erase {m : Memory} {lo : Nat} (a : Nat) {l : List Host.Cell} (hw : m.cellsWf lo l = true) :
    m.cellsWf lo (cellsErase a l) = true := by
  induction l generalizing lo with
  | nil => rfl
  | cons c rest ih =>
    obtain ⟨k, w⟩ := c
    have hw' := Memory.cellsWf_cons.1 hw
    unfold cellsErase
    by_cases h2 : a = k
    · simp only [h2, if_true]
      exact Memory.cellsWf_mono hw'.2.2.2 (by omega)
    · simp only [h2, if_false, Memory.cellsWf_cons]
      exact ⟨hw'.1, hw'.2.1, hw'.2.2.1, ih hw'.2.2.2⟩

/-- `MemWrite` keeps the canonical form. -/
theorem Memory.write_wf {m : Memory} (a : Nat) (v : Byte) (h : m.wf = true) : (m.write a v).wf = true := by
  unfold Memory.wf
  rw [Memory.cellsWf_congr (Memory.write_init m a v)]
  unfold Memory.write
  split
  · rename_i ha
    by_cases hv : v = m.unlisted a
    · simpa [hv] using Memory.cellsWf_erase a h
    · simpa [hv] using Memory.cellsWf_insert h (Nat.zero_le a) ha hv
  · exact h

/-- Successive writes keep the canonical form. -/
theorem Memory.writeFrom_wf {m : Memory} (a : Nat) (vs : List Byte) (h : m.wf = true) : (m.writeFrom a vs).wf = true := by
  induction vs generalizing m a with
  | nil => exact h
  | cons v vs ih => exact ih (a + 1) (Memory.write_wf a v h)

/-- A read of the offset just written gives the value written. -/
theorem Memory.byte_write_same {m : Memory} (h : m.wf = true) {a : Nat} (ha : a < RESP_LEN) (v : Byte) :
    (m.write a v).byte a = v := by
  unfold Memory.byte
  rw [Memory.write_unlisted]
  unfold Memory.write
  rw [if_pos ha]
  by_cases hv : v = m.unlisted a
  · simp [hv, lookup_cellsErase_same a h]
  · simp [hv, lookup_cellsInsert_same]

/-- A write leaves every other offset alone. -/
theorem Memory.byte_write_other (m : Memory) {a b : Nat} (hne : b ≠ a) (v : Byte) : (m.write a v).byte b = m.byte b := by
  unfold Memory.byte
  rw [Memory.write_unlisted]
  unfold Memory.write
  split
  · by_cases hv : v = m.unlisted a
    · simp [hv, lookup_cellsErase_other hne]
    · simp [hv, lookup_cellsInsert_other hne]
  · rfl

/-- What successive writes from `a` on leave: the written bytes where they reach, all else as before. -/
theorem Memory.byte_writeFrom {m : Memory} (h : m.wf = true) (a : Nat) (vs : List Byte) (hfit : a + vs.length ≤ RESP_LEN)
    (b : Nat) :
    (m.writeFrom a vs).byte b = if a ≤ b ∧ b < a + vs.length then vs.getD (b - a) 0#8 else m.byte b := by
  induction vs generalizing m a with
  | nil => rw [if_neg (by simp only [List.length_nil]; omega)]; rfl
  | cons v vs ih =>
    simp only [List.length_cons] at hfit ⊢
    rw [Memory.writeFrom, ih (Memory.write_wf a v h) (a + 1) (by omega)]
    by_cases hb : b = a
    · subst hb
      have : ¬ (b + 1 ≤ b ∧ b < b + 1 + vs.length) := by omega
      rw [if_neg this, Memory.byte_write_same h (by omega), if_pos (by omega)]
      simp
    · rw [Memory.byte_write_other m hb]
      by_cases hc : a + 1 ≤ b ∧ b < a + 1 + vs.length
      · rw [if_pos hc, if_pos (by omega)]
        have : b - a = (b - (a + 1)) + 1 := by omega
        rw [this]; simp
      · rw [if_neg hc, if_neg (by omega)]

/-- After twenty bytes are written from offset 0 on, every cell holds its byte of the delivery (20_memory.md R33). -/
theorem Memory.byte_deliver {m : Memory} (h : m.wf = true) (d : Frame) (k : Fin RESP_LEN) :
    (m.writeFrom 0 d.toList).byte k.val = d[k] := by
  rw [Memory.byte_writeFrom h 0 d.toList (by simp)]
  simp

/-- Equal contents in canonical form are equal lists. -/
theorem Memory.cells_eq_of_lookup {m : Memory} {lo : Nat} {l l' : List Host.Cell} (h : m.cellsWf lo l = true)
    (h' : m.cellsWf lo l' = true)
    (hb : ∀ a, (l.lookup a).getD (m.unlisted a) = (l'.lookup a).getD (m.unlisted a)) : l = l' := by
  induction l generalizing l' lo with
  | nil =>
    cases l' with
    | nil => rfl
    | cons c rest =>
      obtain ⟨k, w⟩ := c
      have hk := hb k
      exact absurd (by simpa using hk.symm) (Memory.cellsWf_cons.1 h').2.2.1
  | cons c rest ih =>
    obtain ⟨k, w⟩ := c
    have hw := Memory.cellsWf_cons.1 h
    cases l' with
    | nil =>
      have hk := hb k
      exact absurd (by simpa using hk) hw.2.2.1
    | cons c' rest' =>
      obtain ⟨k', w'⟩ := c'
      have hw' := Memory.cellsWf_cons.1 h'
      have hk : k = k' := by
        rcases Nat.lt_trichotomy k k' with hlt | heq | hgt
        · have hx := hb k
          have hne : (k == k') = false := by simp; omega
          rw [List.lookup_cons, List.lookup_cons, hne, Memory.lookup_below hw'.2.2.2 (by omega)] at hx
          exact absurd (by simpa using hx) hw.2.2.1
        · exact heq
        · have hx := hb k'
          have hne : (k' == k) = false := by simp; omega
          rw [List.lookup_cons, List.lookup_cons, hne, Memory.lookup_below hw.2.2.2 (by omega)] at hx
          exact absurd (by simpa using hx.symm) hw'.2.2.1
      subst hk
      have hv : w = w' := by simpa using hb k
      subst hv
      have : rest = rest' := by
        refine ih hw.2.2.2 hw'.2.2.2 (fun a => ?_)
        by_cases ha : a = k
        · subst ha
          rw [Memory.lookup_below hw.2.2.2 (by omega), Memory.lookup_below hw'.2.2.2 (by omega)]
        · have hx := hb a
          have hne : (a == k) = false := by simp [ha]
          simpa [List.lookup_cons, hne] using hx
      rw [this]

/-- Equal memories are equal data: two canonical memories over one `RB_INIT` that read the same are the same. -/
theorem Memory.eq_of_byte {m m' : Memory} (h : m.wf = true) (h' : m'.wf = true) (hi : m.init = m'.init)
    (hb : ∀ a, m.byte a = m'.byte a) : m = m' := by
  obtain ⟨init, cells⟩ := m
  obtain ⟨init', cells'⟩ := m'
  simp only at hi
  subst hi
  have hw' : ({ init := init, cells := cells } : Memory).cellsWf 0 cells' = true :=
    (Memory.cellsWf_congr (m := { init := init, cells := cells }) (m' := { init := init, cells := cells' }) rfl 0
      cells').trans h'
  congr 1
  exact Memory.cells_eq_of_lookup h hw' hb

end Sys2Proof.Machine
end

