-- ==== Sys2Proof/Laws/State.lean ====
section
/-! SUPPORT. One lemma per field per update of State, so that no later proof unfolds a record update. -/

namespace Sys2Proof.Machine

/-! ### `State.setPc` -/

@[simp] theorem State.setPc_rb (s : State) (p : Phase) (k : BitVec 5) : (s.setPc p k).rb = s.rb := rfl
@[simp] theorem State.setPc_len (s : State) (p : Phase) (k : BitVec 5) : (s.setPc p k).len = s.len := rfl
@[simp] theorem State.setPc_csum (s : State) (p : Phase) (k : BitVec 5) : (s.setPc p k).csum = s.csum := rfl
@[simp] theorem State.setPc_res (s : State) (p : Phase) (k : BitVec 5) : (s.setPc p k).res = s.res := rfl
@[simp] theorem State.setPc_i (s : State) (p : Phase) (k : BitVec 5) : (s.setPc p k).i = k := rfl
@[simp] theorem State.setPc_ph (s : State) (p : Phase) (k : BitVec 5) : (s.setPc p k).ph = p := rfl
@[simp] theorem State.setPc_ts (s : State) (p : Phase) (k : BitVec 5) : (s.setPc p k).ts = s.ts := rfl
@[simp] theorem State.setPc_ov (s : State) (p : Phase) (k : BitVec 5) : (s.setPc p k).ov = s.ov := rfl
@[simp] theorem State.setPc_outcome (s : State) (p : Phase) (k : BitVec 5) : (s.setPc p k).outcome = s.outcome := rfl
@[simp] theorem State.setPc_reading (s : State) (p : Phase) (k : BitVec 5) : (s.setPc p k).reading = s.reading := rfl
@[simp] theorem State.setPc_call (s : State) (p : Phase) (k : BitVec 5) : (s.setPc p k).call = s.call := rfl
@[simp] theorem State.setPc_transport (s : State) (p : Phase) (k : BitVec 5) :
    (s.setPc p k).transport = s.transport := rfl
@[simp] theorem State.setPc_host (s : State) (p : Phase) (k : BitVec 5) : (s.setPc p k).host = s.host := rfl

/-! ### `State.advance` -/

@[simp] theorem State.advance_rb (s : State) : s.advance.rb = s.rb := rfl
@[simp] theorem State.advance_len (s : State) : s.advance.len = s.len := rfl
@[simp] theorem State.advance_csum (s : State) : s.advance.csum = s.csum := rfl
@[simp] theorem State.advance_res (s : State) : s.advance.res = s.res := rfl
@[simp] theorem State.advance_i (s : State) : s.advance.i = s.i := rfl
@[simp] theorem State.advance_ph (s : State) : s.advance.ph = if s.i.setWidth 8 = s.len then .chk else .data := rfl
@[simp] theorem State.advance_ts (s : State) : s.advance.ts = s.ts := rfl
@[simp] theorem State.advance_ov (s : State) : s.advance.ov = s.ov := rfl
@[simp] theorem State.advance_outcome (s : State) : s.advance.outcome = s.outcome := rfl
@[simp] theorem State.advance_reading (s : State) : s.advance.reading = s.reading := rfl
@[simp] theorem State.advance_call (s : State) : s.advance.call = s.call := rfl
@[simp] theorem State.advance_transport (s : State) : s.advance.transport = s.transport := rfl
@[simp] theorem State.advance_host (s : State) : s.advance.host = s.host := rfl

/-! ### `State.beginParse` -/

@[simp] theorem State.beginParse_rb (s : State) : s.beginParse.rb = s.rb := rfl
@[simp] theorem State.beginParse_len (s : State) : s.beginParse.len = s.len := rfl
@[simp] theorem State.beginParse_csum (s : State) : s.beginParse.csum = s.csum := rfl
@[simp] theorem State.beginParse_res (s : State) : s.beginParse.res = 0#16 := rfl
@[simp] theorem State.beginParse_i (s : State) : s.beginParse.i = 0#5 := rfl
@[simp] theorem State.beginParse_ph (s : State) : s.beginParse.ph = .hdr := rfl
@[simp] theorem State.beginParse_ts (s : State) : s.beginParse.ts = s.ts := rfl
@[simp] theorem State.beginParse_ov (s : State) : s.beginParse.ov = s.ov := rfl
@[simp] theorem State.beginParse_outcome (s : State) : s.beginParse.outcome = s.outcome := rfl
@[simp] theorem State.beginParse_reading (s : State) : s.beginParse.reading = s.reading := rfl
@[simp] theorem State.beginParse_call (s : State) : s.beginParse.call = s.call := rfl
@[simp] theorem State.beginParse_transport (s : State) : s.beginParse.transport = s.transport := rfl
@[simp] theorem State.beginParse_host (s : State) : s.beginParse.host = s.host := rfl

/-! ### `State.endTransaction` -/

@[simp] theorem State.endTransaction_rb (s : State) : s.endTransaction.rb = s.rb := rfl
@[simp] theorem State.endTransaction_len (s : State) : s.endTransaction.len = s.len := rfl
@[simp] theorem State.endTransaction_csum (s : State) : s.endTransaction.csum = s.csum := rfl
@[simp] theorem State.endTransaction_res (s : State) : s.endTransaction.res = s.res := rfl
@[simp] theorem State.endTransaction_i (s : State) : s.endTransaction.i = s.i := rfl
@[simp] theorem State.endTransaction_ph (s : State) : s.endTransaction.ph = s.ph := rfl
@[simp] theorem State.endTransaction_ts (s : State) : s.endTransaction.ts = .idle := rfl
@[simp] theorem State.endTransaction_ov (s : State) : s.endTransaction.ov = true := rfl
@[simp] theorem State.endTransaction_outcome (s : State) : s.endTransaction.outcome = s.outcome := rfl
@[simp] theorem State.endTransaction_reading (s : State) : s.endTransaction.reading = false := rfl
@[simp] theorem State.endTransaction_call (s : State) : s.endTransaction.call = s.call := rfl
@[simp] theorem State.endTransaction_transport (s : State) : s.endTransaction.transport = s.transport := rfl
@[simp] theorem State.endTransaction_host (s : State) : s.endTransaction.host = s.host := rfl

/-! ### `State.raise` -/

@[simp] theorem State.raise_rb (s : State) (k : ErrorKind) : (s.raise k).rb = s.rb := rfl
@[simp] theorem State.raise_len (s : State) (k : ErrorKind) : (s.raise k).len = s.len := rfl
@[simp] theorem State.raise_csum (s : State) (k : ErrorKind) : (s.raise k).csum = s.csum := rfl
@[simp] theorem State.raise_res (s : State) (k : ErrorKind) : (s.raise k).res = s.res := rfl
@[simp] theorem State.raise_i (s : State) (k : ErrorKind) : (s.raise k).i = s.i := rfl
@[simp] theorem State.raise_ph (s : State) (k : ErrorKind) : (s.raise k).ph = .idle := rfl
@[simp] theorem State.raise_ts (s : State) (k : ErrorKind) : (s.raise k).ts = .idle := rfl
@[simp] theorem State.raise_ov (s : State) (k : ErrorKind) : (s.raise k).ov = true := rfl
@[simp] theorem State.raise_outcome (s : State) (k : ErrorKind) : (s.raise k).outcome = .error k := rfl
@[simp] theorem State.raise_reading (s : State) (k : ErrorKind) : (s.raise k).reading = false := rfl
@[simp] theorem State.raise_call (s : State) (k : ErrorKind) : (s.raise k).call = s.call := rfl
@[simp] theorem State.raise_transport (s : State) (k : ErrorKind) : (s.raise k).transport = s.transport := rfl
@[simp] theorem State.raise_host (s : State) (k : ErrorKind) : (s.raise k).host = s.host := rfl

/-! ### `State.clearOv` -/

@[simp] theorem State.clearOv_rb (s : State) : s.clearOv.rb = s.rb := rfl
@[simp] theorem State.clearOv_len (s : State) : s.clearOv.len = s.len := rfl
@[simp] theorem State.clearOv_csum (s : State) : s.clearOv.csum = s.csum := rfl
@[simp] theorem State.clearOv_res (s : State) : s.clearOv.res = s.res := rfl
@[simp] theorem State.clearOv_i (s : State) : s.clearOv.i = s.i := rfl
@[simp] theorem State.clearOv_ph (s : State) : s.clearOv.ph = s.ph := rfl
@[simp] theorem State.clearOv_ts (s : State) : s.clearOv.ts = s.ts := rfl
@[simp] theorem State.clearOv_ov (s : State) : s.clearOv.ov = false := rfl
@[simp] theorem State.clearOv_outcome (s : State) : s.clearOv.outcome = s.outcome := rfl
@[simp] theorem State.clearOv_reading (s : State) : s.clearOv.reading = s.reading := rfl
@[simp] theorem State.clearOv_call (s : State) : s.clearOv.call = s.call := rfl
@[simp] theorem State.clearOv_transport (s : State) : s.clearOv.transport = s.transport := rfl
@[simp] theorem State.clearOv_host (s : State) : s.clearOv.host = s.host := rfl

/-! ### `State.accumulate` -/

@[simp] theorem State.accumulate_rb (s : State) (b : Byte) : (s.accumulate b).rb = s.rb := rfl
@[simp] theorem State.accumulate_len (s : State) (b : Byte) : (s.accumulate b).len = s.len := rfl
@[simp] theorem State.accumulate_csum (s : State) (b : Byte) : (s.accumulate b).csum = csumAdd s.csum b := rfl
@[simp] theorem State.accumulate_res (s : State) (b : Byte) : (s.accumulate b).res = s.res := rfl
@[simp] theorem State.accumulate_i (s : State) (b : Byte) : (s.accumulate b).i = s.i + 1#5 := rfl
@[simp] theorem State.accumulate_ph (s : State) (b : Byte) : (s.accumulate b).ph = s.ph := rfl
@[simp] theorem State.accumulate_ts (s : State) (b : Byte) : (s.accumulate b).ts = s.ts := rfl
@[simp] theorem State.accumulate_ov (s : State) (b : Byte) : (s.accumulate b).ov = s.ov := rfl
@[simp] theorem State.accumulate_outcome (s : State) (b : Byte) : (s.accumulate b).outcome = s.outcome := rfl
@[simp] theorem State.accumulate_reading (s : State) (b : Byte) : (s.accumulate b).reading = s.reading := rfl
@[simp] theorem State.accumulate_call (s : State) (b : Byte) : (s.accumulate b).call = s.call := rfl
@[simp] theorem State.accumulate_transport (s : State) (b : Byte) : (s.accumulate b).transport = s.transport := rfl
@[simp] theorem State.accumulate_host (s : State) (b : Byte) : (s.accumulate b).host = s.host := rfl

/-! ### `State.writeAnswered` -/

@[simp] theorem State.writeAnswered_rb (s : State) (bytes : List Byte) (rest : List WriteAnswer) :
    (s.writeAnswered bytes rest).rb = s.rb := rfl
@[simp] theorem State.writeAnswered_len (s : State) (bytes : List Byte) (rest : List WriteAnswer) :
    (s.writeAnswered bytes rest).len = s.len := rfl
@[simp] theorem State.writeAnswered_csum (s : State) (bytes : List Byte) (rest : List WriteAnswer) :
    (s.writeAnswered bytes rest).csum = s.csum := rfl
@[simp] theorem State.writeAnswered_res (s : State) (bytes : List Byte) (rest : List WriteAnswer) :
    (s.writeAnswered bytes rest).res = s.res := rfl
@[simp] theorem State.writeAnswered_i (s : State) (bytes : List Byte) (rest : List WriteAnswer) :
    (s.writeAnswered bytes rest).i = s.i := rfl
@[simp] theorem State.writeAnswered_ph (s : State) (bytes : List Byte) (rest : List WriteAnswer) :
    (s.writeAnswered bytes rest).ph = s.ph := rfl
@[simp] theorem State.writeAnswered_ts (s : State) (bytes : List Byte) (rest : List WriteAnswer) :
    (s.writeAnswered bytes rest).ts = s.ts := rfl
@[simp] theorem State.writeAnswered_ov (s : State) (bytes : List Byte) (rest : List WriteAnswer) :
    (s.writeAnswered bytes rest).ov = s.ov := rfl
@[simp] theorem State.writeAnswered_outcome (s : State) (bytes : List Byte) (rest : List WriteAnswer) :
    (s.writeAnswered bytes rest).outcome = s.outcome := rfl
@[simp] theorem State.writeAnswered_reading (s : State) (bytes : List Byte) (rest : List WriteAnswer) :
    (s.writeAnswered bytes rest).reading = s.reading := rfl
@[simp] theorem State.writeAnswered_call (s : State) (bytes : List Byte) (rest : List WriteAnswer) :
    (s.writeAnswered bytes rest).call = none := rfl
@[simp] theorem State.writeAnswered_transport (s : State) (bytes : List Byte) (rest : List WriteAnswer) :
    (s.writeAnswered bytes rest).transport =
      { s.transport with writeAnswers := rest, sent := s.transport.sent ++ bytes } := rfl
@[simp] theorem State.writeAnswered_host (s : State) (bytes : List Byte) (rest : List WriteAnswer) :
    (s.writeAnswered bytes rest).host = s.host := rfl

/-! ### `State.readAnswered` -/

@[simp] theorem State.readAnswered_rb (s : State) (m : Memory) (rest : List ReadAnswer) :
    (s.readAnswered m rest).rb = m := rfl
@[simp] theorem State.readAnswered_len (s : State) (m : Memory) (rest : List ReadAnswer) :
    (s.readAnswered m rest).len = s.len := rfl
@[simp] theorem State.readAnswered_csum (s : State) (m : Memory) (rest : List ReadAnswer) :
    (s.readAnswered m rest).csum = s.csum := rfl
@[simp] theorem State.readAnswered_res (s : State) (m : Memory) (rest : List ReadAnswer) :
    (s.readAnswered m rest).res = s.res := rfl
@[simp] theorem State.readAnswered_i (s : State) (m : Memory) (rest : List ReadAnswer) :
    (s.readAnswered m rest).i = s.i := rfl
@[simp] theorem State.readAnswered_ph (s : State) (m : Memory) (rest : List ReadAnswer) :
    (s.readAnswered m rest).ph = s.ph := rfl
@[simp] theorem State.readAnswered_ts (s : State) (m : Memory) (rest : List ReadAnswer) :
    (s.readAnswered m rest).ts = s.ts := rfl
@[simp] theorem State.readAnswered_ov (s : State) (m : Memory) (rest : List ReadAnswer) :
    (s.readAnswered m rest).ov = s.ov := rfl
@[simp] theorem State.readAnswered_outcome (s : State) (m : Memory) (rest : List ReadAnswer) :
    (s.readAnswered m rest).outcome = s.outcome := rfl
@[simp] theorem State.readAnswered_reading (s : State) (m : Memory) (rest : List ReadAnswer) :
    (s.readAnswered m rest).reading = s.reading := rfl
@[simp] theorem State.readAnswered_call (s : State) (m : Memory) (rest : List ReadAnswer) :
    (s.readAnswered m rest).call = none := rfl
@[simp] theorem State.readAnswered_transport (s : State) (m : Memory) (rest : List ReadAnswer) :
    (s.readAnswered m rest).transport = { s.transport with readAnswers := rest } := rfl
@[simp] theorem State.readAnswered_host (s : State) (m : Memory) (rest : List ReadAnswer) :
    (s.readAnswered m rest).host = s.host := rfl

/-! ### `State.noIntruder` -/

@[simp] theorem State.noIntruder_rb (s : State) : s.noIntruder.rb = s.rb := rfl
@[simp] theorem State.noIntruder_len (s : State) : s.noIntruder.len = s.len := rfl
@[simp] theorem State.noIntruder_csum (s : State) : s.noIntruder.csum = s.csum := rfl
@[simp] theorem State.noIntruder_res (s : State) : s.noIntruder.res = s.res := rfl
@[simp] theorem State.noIntruder_i (s : State) : s.noIntruder.i = s.i := rfl
@[simp] theorem State.noIntruder_ph (s : State) : s.noIntruder.ph = s.ph := rfl
@[simp] theorem State.noIntruder_ts (s : State) : s.noIntruder.ts = s.ts := rfl
@[simp] theorem State.noIntruder_ov (s : State) : s.noIntruder.ov = s.ov := rfl
@[simp] theorem State.noIntruder_outcome (s : State) : s.noIntruder.outcome = s.outcome := rfl
@[simp] theorem State.noIntruder_reading (s : State) : s.noIntruder.reading = s.reading := rfl
@[simp] theorem State.noIntruder_call (s : State) : s.noIntruder.call = s.call := rfl
@[simp] theorem State.noIntruder_transport (s : State) : s.noIntruder.transport = s.transport := rfl
@[simp] theorem State.noIntruder_host (s : State) : s.noIntruder.host = s.host.dropWhile (fun h => !h.waits) := rfl

/-! ### `State.complete` -/

@[simp] theorem State.complete_rb (s : State) : s.complete.rb = s.rb := by
  unfold State.complete; dsimp only; split <;> rfl
@[simp] theorem State.complete_len (s : State) : s.complete.len = s.len := by
  unfold State.complete; dsimp only; split <;> rfl
@[simp] theorem State.complete_csum (s : State) : s.complete.csum = s.csum := by
  unfold State.complete; dsimp only; split <;> rfl
@[simp] theorem State.complete_res (s : State) : s.complete.res = s.res := by
  unfold State.complete; dsimp only; split <;> rfl
@[simp] theorem State.complete_i (s : State) : s.complete.i = s.i := by
  unfold State.complete; dsimp only; split <;> rfl
@[simp] theorem State.complete_ph (s : State) : s.complete.ph = .idle := by
  unfold State.complete; dsimp only; split <;> rfl
@[simp] theorem State.complete_ts (s : State) : s.complete.ts = if s.reading then .idle else s.ts := by
  unfold State.complete; dsimp only; split <;> simp_all
@[simp] theorem State.complete_ov (s : State) : s.complete.ov = true := by
  unfold State.complete; dsimp only; split <;> rfl
@[simp] theorem State.complete_outcome (s : State) : s.complete.outcome = .ok s.res := by
  unfold State.complete; dsimp only; split <;> rfl
@[simp] theorem State.complete_reading (s : State) : s.complete.reading = false := by
  unfold State.complete; dsimp only; split <;> simp_all
@[simp] theorem State.complete_call (s : State) : s.complete.call = s.call := by
  unfold State.complete; dsimp only; split <;> rfl
@[simp] theorem State.complete_transport (s : State) : s.complete.transport = s.transport := by
  unfold State.complete; dsimp only; split <;> rfl
@[simp] theorem State.complete_host (s : State) : s.complete.host = s.host := by
  unfold State.complete; dsimp only; split <;> rfl

/-! ### `State.issue` -/

@[simp] theorem State.issue_rb (s : State) (c : TCall) : (s.issue c).rb = s.rb := by
  unfold State.issue; split <;> simp_all
@[simp] theorem State.issue_len (s : State) (c : TCall) : (s.issue c).len = s.len := by
  unfold State.issue; split <;> simp_all
@[simp] theorem State.issue_csum (s : State) (c : TCall) : (s.issue c).csum = s.csum := by
  unfold State.issue; split <;> simp_all
@[simp] theorem State.issue_res (s : State) (c : TCall) : (s.issue c).res = s.res := by
  unfold State.issue; split <;> simp_all
@[simp] theorem State.issue_i (s : State) (c : TCall) : (s.issue c).i = s.i := by
  unfold State.issue; split <;> simp_all
@[simp] theorem State.issue_ph (s : State) (c : TCall) : (s.issue c).ph = s.ph := by
  unfold State.issue; split <;> simp_all
@[simp] theorem State.issue_ts (s : State) (c : TCall) : (s.issue c).ts = s.ts := by
  unfold State.issue; split <;> simp_all
@[simp] theorem State.issue_ov (s : State) (c : TCall) : (s.issue c).ov = s.ov := by
  unfold State.issue; split <;> simp_all
@[simp] theorem State.issue_outcome (s : State) (c : TCall) : (s.issue c).outcome = s.outcome := by
  unfold State.issue; split <;> simp_all
@[simp] theorem State.issue_reading (s : State) (c : TCall) : (s.issue c).reading = s.reading := by
  unfold State.issue; split <;> simp_all
@[simp] theorem State.issue_call (s : State) (c : TCall) : (s.issue c).call = some c := by
  unfold State.issue; split <;> simp_all
theorem State.issue_transport (s : State) (c : TCall) :
    (s.issue c).transport =
      if s.call = some c then s.transport else { s.transport with calls := s.transport.calls ++ [c] } := by
  unfold State.issue; split <;> rfl
@[simp] theorem State.issue_host (s : State) (c : TCall) : (s.issue c).host = s.host := by
  unfold State.issue; split <;> simp_all
@[simp] theorem State.issue_writeAnswers (s : State) (c : TCall) :
    (s.issue c).transport.writeAnswers = s.transport.writeAnswers := by
  unfold State.issue; split <;> rfl
@[simp] theorem State.issue_readAnswers (s : State) (c : TCall) :
    (s.issue c).transport.readAnswers = s.transport.readAnswers := by
  unfold State.issue; split <;> rfl
@[simp] theorem State.issue_sent (s : State) (c : TCall) :
    (s.issue c).transport.sent = s.transport.sent := by
  unfold State.issue; split <;> rfl

/-! ### Reset -/

@[simp] theorem State.resetWith_rb (c : ResetChoice) (th : Transport) (h : List HostStart) :
    (State.resetWith c th h).rb = { init := c.rbInit, cells := [] } := rfl
@[simp] theorem State.resetWith_len (c : ResetChoice) (th : Transport) (h : List HostStart) :
    (State.resetWith c th h).len = c.len := rfl
@[simp] theorem State.resetWith_csum (c : ResetChoice) (th : Transport) (h : List HostStart) :
    (State.resetWith c th h).csum = c.csum := rfl
@[simp] theorem State.resetWith_res (c : ResetChoice) (th : Transport) (h : List HostStart) :
    (State.resetWith c th h).res = c.res := rfl
@[simp] theorem State.resetWith_i (c : ResetChoice) (th : Transport) (h : List HostStart) :
    (State.resetWith c th h).i = c.i := rfl
@[simp] theorem State.resetWith_ph (c : ResetChoice) (th : Transport) (h : List HostStart) :
    (State.resetWith c th h).ph = .idle := rfl
@[simp] theorem State.resetWith_ts (c : ResetChoice) (th : Transport) (h : List HostStart) :
    (State.resetWith c th h).ts = .idle := rfl
@[simp] theorem State.resetWith_ov (c : ResetChoice) (th : Transport) (h : List HostStart) :
    (State.resetWith c th h).ov = false := rfl
@[simp] theorem State.resetWith_outcome (c : ResetChoice) (th : Transport) (h : List HostStart) :
    (State.resetWith c th h).outcome = c.outcome := rfl
@[simp] theorem State.resetWith_reading (c : ResetChoice) (th : Transport) (h : List HostStart) :
    (State.resetWith c th h).reading = false := rfl
@[simp] theorem State.resetWith_call (c : ResetChoice) (th : Transport) (h : List HostStart) :
    (State.resetWith c th h).call = none := rfl
@[simp] theorem State.resetWith_transport (c : ResetChoice) (th : Transport) (h : List HostStart) :
    (State.resetWith c th h).transport = th := rfl
@[simp] theorem State.resetWith_host (c : ResetChoice) (th : Transport) (h : List HostStart) :
    (State.resetWith c th h).host = h := rfl

end Sys2Proof.Machine
end

