-- ==== Sys2Proof/Laws/Ops.lean ====
section
/-! SUPPORT. One lemma per shared operation: what it can do. -/

namespace Sys2Proof.Machine

/-! ### Reads of the frame -/

theorem State.memRead_inRange {s : State} {a : Offset} (h : a.toNat < RESP_LEN) :
    s.memRead a = .ok (s.rb.byte a.toNat) := by
  unfold State.memRead; rw [Memory.read?_of_lt h]

theorem State.memRead_outOfRange {s : State} {a : Offset} (h : RESP_LEN ≤ a.toNat) :
    s.memRead a = .error (.malformedLength s.len) := by
  unfold State.memRead; rw [Memory.read?_of_ge h]

@[simp] theorem State.headerByte_eq (s : State) : s.headerByte = .ok (s.rb.byte 0) := State.memRead_inRange (by decide)

@[simp] theorem State.lengthByte_eq (s : State) : s.lengthByte = .ok (s.rb.byte 1) := State.memRead_inRange (by decide)

/-- The offset `2 + I` does not wrap (40_frame_codec.md R86 (f)). -/
theorem blockOffset_toNat (i : BitVec 5) : (2#9 + i.setWidth 9).toNat = 2 + i.toNat := by
  have := i.isLt
  simp only [BitVec.toNat_add, BitVec.toNat_ofNat, BitVec.toNat_setWidth]
  omega

/-- The offset `2 + LEN` does not wrap (40_frame_codec.md R86 (f)). -/
theorem trailingOffset_toNat (n : Byte) : (2#9 + n.setWidth 9).toNat = 2 + n.toNat := by
  have := n.isLt
  simp only [BitVec.toNat_add, BitVec.toNat_ofNat, BitVec.toNat_setWidth]
  omega

theorem State.blockByte_inRange {s : State} (h : s.i.toNat < 18) : s.blockByte = .ok (s.rb.byte (2 + s.i.toNat)) := by
  unfold State.blockByte
  rw [State.memRead_inRange (by rw [blockOffset_toNat]; show _ < 20; omega), blockOffset_toNat]

theorem State.blockByte_outOfRange {s : State} (h : 18 ≤ s.i.toNat) :
    s.blockByte = .error (.malformedLength s.len) := by
  unfold State.blockByte
  rw [State.memRead_outOfRange (by rw [blockOffset_toNat]; show 20 ≤ _; omega)]

theorem State.trailingByte_inRange {s : State} (h : s.len.toNat < 18) :
    s.trailingByte = .ok (s.rb.byte (2 + s.len.toNat)) := by
  unfold State.trailingByte
  rw [State.memRead_inRange (by rw [trailingOffset_toNat]; show _ < 20; omega), trailingOffset_toNat]

theorem State.trailingByte_outOfRange {s : State} (h : 18 ≤ s.len.toNat) :
    s.trailingByte = .error (.malformedLength s.len) := by
  unfold State.trailingByte
  rw [State.memRead_outOfRange (by rw [trailingOffset_toNat]; show 20 ≤ _; omega)]

/-! ### Committing a micro-operation -/

@[simp] theorem State.commit_ok (s t : State) : s.commit (.ok t) = .next t := rfl

@[simp] theorem State.commit_error (s : State) (k : ErrorKind) : s.commit (.error k) = .next (s.raise k) := rfl

/-- A committed micro-operation either moves to the state it computed or raises from the state it started in. -/
theorem State.commit_next {s t : State} {r : Except ErrorKind State} (h : s.commit r = .next t) :
    r = .ok t ∨ ∃ k, r = .error k ∧ t = s.raise k := by
  cases r with
  | ok u => cases h; exact .inl rfl
  | error k => cases h; exact .inr ⟨k, rfl, rfl⟩

/-- What a data frame with no field does while its cell exists. -/
theorem State.dataFrame_inRange {s : State} (h : s.i.toNat < 18) :
    s.dataFrame = .next (s.accumulate (s.rb.byte (2 + s.i.toNat))).advance := by
  unfold State.dataFrame; rw [State.blockByte_inRange h]; rfl

/-- What it does where the cell does not exist. -/
theorem State.dataFrame_outOfRange {s : State} (h : 18 ≤ s.i.toNat) :
    s.dataFrame = .next (s.raise (.malformedLength s.len)) := by
  unfold State.dataFrame; rw [State.blockByte_outOfRange h]; rfl

/-! ### Transport calls -/

/-- Issuing a call the block is already blocked in changes nothing. -/
theorem State.issue_issued {s : State} {c : TCall} (h : s.call = some c) : s.issue c = s := if_pos h

/-- Issuing a call twice is issuing it once. -/
theorem State.issue_idem (s : State) (c : TCall) : (s.issue c).issue c = s.issue c := State.issue_issued (by simp)

/-! ### Selection -/

theorem State.quiet_iff {s : State} : s.quiet = true ↔ s.ph = .idle ∧ s.ts = .idle ∧ s.reading = false := by
  simp [State.quiet, and_assoc]

/-- A host that serialises its calls starts nothing while an operation is in progress. -/
theorem State.hostStart_of_waiting {s : State} (h : ∀ x ∈ s.host, x.waits = true) (hb : s.quiet = false) :
    s.hostStart = none := by
  unfold State.hostStart
  split
  · rfl
  · rename_i x rest heq
    have hx := h x (by simp [heq])
    simp [hx, hb]

/-- The operation an `OP` selects (30_encoding.md R58). -/
def HostOp.instr : HostOp → Instr
  | .parse => .parse
  | .readPm25 => .readPm25

/-- The sub-operation a `TS` selects (30_encoding.md R58). -/
def TState.instr : TState → Instr
  | .idle => .sendCommand
  | .awaitingResponse => .readResponse
  | .parsing => .parseInvoke

/-- The micro-operation a position of the `DATA` phase selects (30_encoding.md R57). -/
def blockInstr (i : BitVec 5) : Instr :=
  if i = 0#5 then .cmd
  else if i = 1#5 then .dfn1
  else if i = 2#5 then .dfn2
  else if i = 3#5 then .dfh
  else if i = 4#5 then .dfl
  else if i = 5#5 then .dfn5
  else if i < 8#5 then .dfn6to7
  else if i < 16#5 then .dfn8to15
  else .dfn16to31

/-- The micro-operation a position selects (30_encoding.md R57); none while no `PARSE` is in progress. -/
def Phase.instr (p : Phase) (i : BitVec 5) : Option Instr :=
  match p with
  | .idle => none
  | .hdr => some .hdr
  | .len => some .len
  | .data => some (blockInstr i)
  | .chk => some .chk

theorem decode_host (op : HostOp) : decode .host op.code.toNat = .ok op.instr := by cases op <;> rfl

theorem decode_drv (t : TState) : decode .drv t.code.toNat = .ok t.instr := by cases t <;> rfl

theorem decode_pos (p : Phase) (hp : p ≠ .idle) (i : BitVec 5) :
    some ((decode .pos (p.code.extractLsb' 0 2 ++ i).toNat).toOption) = some (p.instr i) := by
  cases p with
  | idle => exact absurd rfl hp
  | hdr => revert i; decide
  | len => revert i; decide
  | data => revert i; decide
  | chk => revert i; decide

theorem State.fetch_start {s : State} {op : HostOp} (h : s.hostStart = some op) :
    s.fetch = some (op.instr, { s with host := s.host.tail }) := by
  unfold State.fetch; rw [h]; simp only [decode_host]; rfl

theorem State.fetch_codec {s : State} (h : s.hostStart = none) (hp : s.ph ≠ .idle) :
    s.fetch = (s.ph.instr s.i).map (fun i => (i, s)) := by
  unfold State.fetch
  rw [h]
  simp only [if_pos hp, State.pw, Option.some.inj (decode_pos s.ph hp s.i)]

theorem State.fetch_driver {s : State} (h : s.hostStart = none) (hp : s.ph = .idle) (hr : s.reading = true) :
    s.fetch = some (s.ts.instr, s) := by
  unfold State.fetch; rw [h]; simp [hp, hr, decode_drv]; rfl

theorem State.fetch_idle {s : State} (h : s.hostStart = none) (hp : s.ph = .idle) (hr : s.reading = false) :
    s.fetch = none := by
  unfold State.fetch; rw [h]; simp [hp, hr]

/-- Everything a step can do: nothing on an idle block, a host operation, a micro-operation, or a driver sub-operation. -/
theorem step_cases {s : State} {o : Host.Outcome State Fault Refusal} (h : step s = o) :
    (s.hostStart = none ∧ s.ph = .idle ∧ s.reading = false ∧ o = .next s) ∨
    (∃ op, s.hostStart = some op ∧ o = exec op.instr { s with host := s.host.tail }) ∨
    (∃ i, s.hostStart = none ∧ s.ph ≠ .idle ∧ s.ph.instr s.i = some i ∧ o = exec i s) ∨
    (s.hostStart = none ∧ s.ph = .idle ∧ s.reading = true ∧ o = exec s.ts.instr s) := by
  subst h
  cases hs : s.hostStart with
  | some op => exact .inr (.inl ⟨op, rfl, by unfold step; rw [State.fetch_start hs]⟩)
  | none =>
    by_cases hp : s.ph = .idle
    · cases hr : s.reading with
      | false => exact .inl ⟨rfl, hp, rfl, by unfold step; rw [State.fetch_idle hs hp hr]⟩
      | true => exact .inr (.inr (.inr ⟨rfl, hp, rfl, by unfold step; rw [State.fetch_driver hs hp hr]⟩))
    · refine .inr (.inr (.inl ?_))
      cases hi : s.ph.instr s.i with
      | none => cases hph : s.ph <;> simp [hph, Phase.instr] at hi hp
      | some i => exact ⟨i, rfl, hp, rfl, by unfold step; rw [State.fetch_codec hs hp, hi]; rfl⟩

end Sys2Proof.Machine
end

