-- ==== Sys2Proof/Laws/Inversion.lean ====
section
/-! SUPPORT. Inversion of the operations: if one answers a next state, which state it is. -/

namespace Sys2Proof.Machine

/-- A host operation that answers a next state was started while none was in progress, and only begins its operation. -/
theorem execHost_next {op : HostOp} {s t : State} (h : exec op.instr s = .next t) :
    s.quiet = true ∧ ((op = .parse ∧ t = s.clearOv.beginParse) ∨
      (op = .readPm25 ∧ t = { s.clearOv with reading := true })) := by
  cases op
  · simp only [HostOp.instr, exec, execParse] at h
    split at h
    · rename_i hq; cases h; exact ⟨hq, .inl ⟨rfl, rfl⟩⟩
    · cases h
  · simp only [HostOp.instr, exec, execReadPm25] at h
    split at h
    · rename_i hq; cases h; exact ⟨hq, .inr ⟨rfl, rfl⟩⟩
    · cases h

/-- `SEND_COMMAND` waits in the write, or has handed the request over, or raises. -/
theorem execSendCommand_next {s t : State} (h : execSendCommand s = .next t) :
    t = s.issue (.write REQ) ∨
    (∃ rest, t = { (s.issue (.write REQ)).writeAnswered REQ rest with ts := .awaitingResponse }) ∨
    (∃ e bytes rest, t = ((s.issue (.write REQ)).writeAnswered bytes rest).raise (.serialWriteFail e)) := by
  unfold execSendCommand at h
  dsimp only at h
  split at h <;> cases h
  · exact .inl rfl
  · exact .inr (.inl ⟨_, rfl⟩)
  · exact .inr (.inr ⟨_, _, _, rfl⟩)

/-- `READ_RESPONSE` waits in the read, or has written successive bytes from offset 0 on, or has done so and raises. -/
theorem execReadResponse_next {s t : State} (h : execReadResponse s = .next t) :
    t = s.issue (.read RESP_LEN) ∨
    (∃ bytes rest,
      t = { (s.issue (.read RESP_LEN)).readAnswered (s.rb.writeFrom 0 bytes) rest with ts := .parsing }) ∨
    (∃ e bytes rest,
      t = ((s.issue (.read RESP_LEN)).readAnswered (s.rb.writeFrom 0 bytes) rest).raise (.serialReadFail e)) := by
  unfold execReadResponse at h
  dsimp only at h
  split at h <;> cases h
  · exact .inl rfl
  · exact .inr (.inl ⟨_, _, by rw [State.issue_rb]⟩)
  · exact .inr (.inl ⟨_, _, by rw [State.issue_rb]⟩)
  · exact .inr (.inr ⟨_, _, _, by rw [State.issue_rb]⟩)

/-- `PARSE_INVOKE` only begins the `PARSE`. -/
theorem execParseInvoke_next {s t : State} (h : execParseInvoke s = .next t) : s.ph = .idle ∧ t = s.beginParse := by
  unfold execParseInvoke at h
  split at h
  · rename_i hp; cases h; exact ⟨hp, rfl⟩
  · cases h

/-- A data frame raises, or accumulates some byte and advances. -/
theorem State.dataFrame_cases (s : State) :
    (∃ k, s.dataFrame = .next (s.raise k)) ∨ (∃ b, s.dataFrame = .next (s.accumulate b).advance) := by
  unfold State.dataFrame
  cases s.blockByte with
  | ok b => exact .inr ⟨b, rfl⟩
  | error k => exact .inl ⟨k, rfl⟩

theorem zext_eq_iff {i : BitVec 5} {n : Byte} : i.setWidth 8 = n ↔ i.toNat = n.toNat := by
  rw [← BitVec.toNat_inj, BitVec.toNat_setWidth, Nat.mod_eq_of_lt (by have := i.isLt; omega)]

theorem index_succ {i : BitVec 5} (h : i.toNat ≤ 17) : (i + 1#5).toNat = i.toNat + 1 := by
  simp only [BitVec.toNat_add, BitVec.toNat_ofNat]; omega

end Sys2Proof.Machine
end

