-- ==== Sys2Proof/Laws/PerInstr.lean ====
section
/-! SUPPORT. The statements made per operation: the decoder reads every word of an operation's row as that operation, and no
other row of its format matches such a word (30_encoding.md R57, R58). -/

namespace Sys2Proof.Laws.RoundTrip

/-- Whatever the don't-care bits, the word of `i` decodes to `i`. -/
def Statement (i : Instr) : Prop := ∀ x : BitVec 7, decode i.format (i.encodeWith x).toNat = .ok i

theorem hdr : Statement .hdr := by unfold Statement; decide
theorem len : Statement .len := by unfold Statement; decide
theorem cmd : Statement .cmd := by unfold Statement; decide
theorem dfn1 : Statement .dfn1 := by unfold Statement; decide
theorem dfn2 : Statement .dfn2 := by unfold Statement; decide
theorem dfh : Statement .dfh := by unfold Statement; decide
theorem dfl : Statement .dfl := by unfold Statement; decide
theorem dfn5 : Statement .dfn5 := by unfold Statement; decide
theorem dfn6to7 : Statement .dfn6to7 := by unfold Statement; decide
theorem dfn8to15 : Statement .dfn8to15 := by unfold Statement; decide
theorem dfn16to31 : Statement .dfn16to31 := by unfold Statement; decide
theorem chk : Statement .chk := by unfold Statement; decide
theorem parse : Statement .parse := by unfold Statement; decide
theorem readPm25 : Statement .readPm25 := by unfold Statement; decide
theorem sendCommand : Statement .sendCommand := by unfold Statement; decide
theorem readResponse : Statement .readResponse := by unfold Statement; decide
theorem parseInvoke : Statement .parseInvoke := by unfold Statement; decide

end Sys2Proof.Laws.RoundTrip
end

