-- ==== Sys2Proof/Laws/Run.lean ====
section
/-! SUPPORT. Running several steps. -/

namespace Sys2Proof.Machine

@[simp] theorem runSteps_zero (s : State) : runSteps 0 s = .next s := rfl

/-- One step of a run. -/
theorem runSteps_next {s t : State} (n : Nat) (h : step s = .next t) : runSteps (n + 1) s = runSteps n t := by
  rw [runSteps, h]

/-- A run of `m + n` steps is a run of `m` followed by one of `n`. -/
theorem runSteps_add {s t : State} (m n : Nat) (h : runSteps m s = .next t) : runSteps (m + n) s = runSteps n t := by
  induction m generalizing s with
  | zero => rw [runSteps_zero] at h; cases h; rw [Nat.zero_add]
  | succ m ih =>
    rw [runSteps] at h
    rw [Nat.succ_add, runSteps]
    cases hs : step s with
    | next u => rw [hs] at h; exact ih h
    | fault r => rw [hs] at h; cases h
    | refused r => rw [hs] at h; cases h

theorem coreRun_next {M : Host.Core} {s t : M.State} (n : Nat) (h : M.step s = .next t) :
    M.run (n + 1) s = M.run n t := by
  rw [Host.Core.run.eq_2, h]

theorem coreRun_fault {M : Host.Core} {s : M.State} {r : M.Fault} (n : Nat) (h : M.step s = .fault r) :
    M.run (n + 1) s = .fault r := by
  rw [Host.Core.run.eq_2, h]

theorem coreRun_refused {M : Host.Core} {s : M.State} {r : M.Refusal} (n : Nat) (h : M.step s = .refused r) :
    M.run (n + 1) s = .refused r := by
  rw [Host.Core.run.eq_2, h]

/-- A run of the model is a run of the host's machine. -/
theorem runSteps_eq_core (n : Nat) : ∀ s : State, runSteps n s = Host.Core.run Sys2Proof.core n s := by
  induction n with
  | zero => intro s; rfl
  | succ n ih =>
    intro s
    cases hs : step s with
    | next t => exact (runSteps_next n hs).trans ((ih t).trans (coreRun_next (M := Sys2Proof.core) n hs).symm)
    | fault r =>
      have h1 : runSteps (n + 1) s = .fault r := by rw [runSteps, hs]
      exact h1.trans (coreRun_fault (M := Sys2Proof.core) n hs).symm
    | refused r =>
      have h1 : runSteps (n + 1) s = .refused r := by rw [runSteps, hs]
      exact h1.trans (coreRun_refused (M := Sys2Proof.core) n hs).symm

end Sys2Proof.Machine
end

