-- ==== Sys2Proof/Tests/Slice0.lean ====
section
/-! SUPPORT. The model's own tests. Expected values are those of 95_test_vectors.md (named in each comment) or read off the
rules; the theorems named witness_... show states and operands that meet the hypotheses of the statements. -/

namespace Sys2Proof.Tests

open Sys2Proof Sys2Proof.Machine

/-! ### Helpers -/

def nextOf : Host.Outcome State Fault Refusal → Option State
  | .next t => some t
  | _ => none

def refusalOf : Host.Outcome State Fault Refusal → Option Refusal
  | .refused r => some r
  | _ => none

/-- `RB` holding `l` from offset 0 on, zeros elsewhere. -/
def buf (l : List Byte) : Memory :=
  ({ init := Vector.replicate RESP_LEN 0#8, cells := [] } : Memory).writeFrom 0 l

/-- A `PARSE` in progress on `l`. -/
def inParse (l : List Byte) (ph : Phase) (i : BitVec 5) (len csum : Byte) (res : Measurement) : State :=
  { State.reset with rb := buf l, ph := ph, i := i, len := len, csum := csum, res := res }

/-- A `READ_PM25` in progress over a transport with these answers. -/
def inRead (ts : TState) (w : List WriteAnswer) (r : List ReadAnswer) : State :=
  { State.reset with
    ts := ts
    reading := true
    transport := { writeAnswers := w, readAnswers := r, sent := [], calls := [] } }

/-- The frame of 95_test_vectors.md T1. -/
def t1 : List Byte :=
  [0x16#8, 0x11#8, 0x0b#8, 0#8, 0#8, 0#8, 9#8, 0#8, 0#8, 3#8] ++
  [0xee#8, 0#8, 0#8, 0#8, 0x40#8, 2#8, 0#8, 0#8, 0x37#8, 0x5b#8]

/-- The frame of P2, without its trailing bytes. -/
def p2 : List Byte := [0x16#8, 5#8, 0x0b#8, 0#8, 0#8, 2#8, 3#8, 0xd5#8]

def t1Frame : Frame := ⟨t1.toArray, by decide⟩

/-! ### Words that are ill-formed, one for each check -/

theorem test_wide_word_ill_formed : Format.pos.wellFormed 0x80 = false := by decide
theorem test_unused_driver_word_ill_formed : Format.drv.wellFormed 3 = false := by decide
theorem test_words_well_formed : Format.pos.wellFormed 0x7F = true ∧ Format.drv.wellFormed 2 = true := by decide

/-! ### Decoding (30_encoding.md R57, R58) -/

theorem test_decode_hdr : decode .pos 0b0000000 = .ok .hdr ∧ decode .pos 0b0011111 = .ok .hdr := by decide
theorem test_decode_len : decode .pos 0b0100000 = .ok .len ∧ decode .pos 0b0111111 = .ok .len := by decide
theorem test_decode_cmd : decode .pos 0b1000000 = .ok .cmd := by decide
theorem test_decode_dfn1 : decode .pos 0b1000001 = .ok .dfn1 := by decide
theorem test_decode_dfn2 : decode .pos 0b1000010 = .ok .dfn2 := by decide
theorem test_decode_dfh : decode .pos 0b1000011 = .ok .dfh := by decide
theorem test_decode_dfl : decode .pos 0b1000100 = .ok .dfl := by decide
theorem test_decode_dfn5 : decode .pos 0b1000101 = .ok .dfn5 := by decide
theorem test_decode_dfn6to7 : decode .pos 0b1000110 = .ok .dfn6to7 ∧ decode .pos 0b1000111 = .ok .dfn6to7 := by decide
theorem test_decode_dfn8to15 : decode .pos 0b1001000 = .ok .dfn8to15 ∧ decode .pos 0b1001111 = .ok .dfn8to15 := by decide
theorem test_decode_dfn16to31 : decode .pos 0b1010000 = .ok .dfn16to31 ∧ decode .pos 0b1011111 = .ok .dfn16to31 := by
  decide
theorem test_decode_chk : decode .pos 0b1100000 = .ok .chk ∧ decode .pos 0b1111111 = .ok .chk := by decide
theorem test_decode_parse : decode .host 0b0 = .ok .parse := by decide
theorem test_decode_readPm25 : decode .host 0b1 = .ok .readPm25 := by decide
theorem test_decode_sendCommand : decode .drv 0b00 = .ok .sendCommand := by decide
theorem test_decode_readResponse : decode .drv 0b01 = .ok .readResponse := by decide
theorem test_decode_parseInvoke : decode .drv 0b10 = .ok .parseInvoke := by decide
theorem test_decode_rejects :
    decode .drv 0b11 = .rejected .unusedDriverCode ∧ decode .pos 128 = .rejected .tooWide ∧
    decode .host 2 = .rejected .tooWide := by decide

/-- The mnemonic of each row, by name, for the words the table's `match` column gives (log 14 for the shared ones). -/
theorem test_table_words :
    [0x00, 0x20, 0x40, 0x41, 0x42, 0x43, 0x44, 0x45, 0x46, 0x48, 0x50, 0x60, 0x01, 0x02].map
      (fun w => (decodeTableWord 8 w).map Instr.mnemonic) =
    ["HDR", "LEN", "CMD", "DFN", "DFN", "DFH", "DFL", "DFN", "DFN", "DFN", "DFN", "CHK", "READ_PM25", "PARSE_INVOKE"].map
      some := by decide

theorem test_table_words_by_width :
    decodeTableWord 1 0 = some .parse ∧ decodeTableWord 1 1 = some .readPm25 ∧ decodeTableWord 2 0 = some .sendCommand ∧
    decodeTableWord 2 1 = some .readResponse ∧ decodeTableWord 2 2 = some .parseInvoke ∧
    decodeTableWord 7 1 = some .hdr := by decide

/-- A placed word is what the next step selects. -/
theorem test_placed_word_is_fetched :
    [(8, 0x00), (8, 0x20), (8, 0x40), (8, 0x43), (8, 0x46), (8, 0x50), (8, 0x60), (1, 0), (1, 1), (2, 0), (2, 1), (2, 2)].all
      (fun p => ((State.reset.withFetchWord p.1 p.2).fetch.map Prod.fst) == decodeTableWord p.1 p.2) = true := by decide

/-- R60: `DF3` is `DFH`, `DF4` is `DFL`, `DF1` and `DF16` are `DFN`; there is no `DF17`. -/
theorem test_pseudo_mnemonics :
    dfMicroOp 3 = some .dfh ∧ dfMicroOp 4 = some .dfl ∧ dfMicroOp 1 = some .dfn1 ∧ dfMicroOp 16 = some .dfn16to31 ∧
    dfMicroOp 17 = none ∧ dfMicroOp 0 = none := by decide

/-- P8. -/
theorem test_assemble_cks :
    assemble [.byte 0x16#8, .byte 5#8, .byte 0x0b#8, .byte 0#8, .byte 0#8, .byte 2#8, .byte 3#8, .cks] = p2 := by decide

/-! ### The micro-operations (95_test_vectors.md section 2.1) -/

/-- H1. -/
theorem test_hdr_ok : (nextOf (exec .hdr (inParse [0x16#8] .hdr 0#5 0#8 0#8 0#16))).map (·.ph) = some .len := by decide
/-- H7. -/
theorem test_hdr_bad :
    (nextOf (exec .hdr (inParse [0x96#8] .hdr 0#5 0#8 0#8 0#16))).map (fun t => (t.outcome, t.ph, t.ov)) =
      some (.error (.invalidHeader 0x96#8), .idle, true) := by decide
/-- L6. -/
theorem test_len_wraps :
    (nextOf (exec .len (inParse [0x16#8, 0xFF#8] .len 0#5 0#8 0#8 0#16))).map (fun t => (t.len, t.csum, t.i, t.ph)) =
      some (0xFF#8, 0x15#8, 0#5, .data) := by decide
/-- L2. -/
theorem test_len_zero :
    (nextOf (exec .len (inParse [0x16#8] .len 0#5 0#8 0#8 0#16))).map (fun t => (t.len, t.csum, t.i, t.ph)) =
      some (0#8, 0x16#8, 0#5, .chk) := by decide
/-- M2. -/
theorem test_cmd_last :
    (nextOf (exec .cmd (inParse [0x16#8, 1#8, 0x0b#8] .data 0#5 1#8 0x17#8 0#16))).map (fun t => (t.csum, t.i, t.ph)) =
      some (0x22#8, 1#5, .chk) := by decide
/-- M6. -/
theorem test_cmd_bad :
    (nextOf (exec .cmd (inParse [0x16#8, 0x11#8, 0x8b#8] .data 0#5 0x11#8 0x27#8 0#16))).map (fun t => (t.outcome, t.csum)) =
      some (.error (.invalidCommandResponse 0x8b#8), 0x27#8) := by decide
/-- N4. -/
theorem test_dfn2 :
    (nextOf (exec .dfn2 (inParse [0x16#8, 3#8, 0x0b#8, 0#8, 0x80#8] .data 2#5 3#8 0x24#8 0#16))).map
      (fun t => (t.csum, t.i, t.ph)) = some (0xA4#8, 3#5, .chk) := by decide
/-- N1. -/
theorem test_dfn1 :
    (nextOf (exec .dfn1 (inParse t1 .data 1#5 0x11#8 0x32#8 0#16))).map (fun t => (t.csum, t.i, t.ph)) =
      some (0x32#8, 2#5, .data) := by decide
/-- N5. -/
theorem test_dfn5_wraps :
    (nextOf (exec .dfn5 (inParse [0#8, 0#8, 0#8, 0#8, 0#8, 0#8, 0#8, 1#8] .data 5#5 0x11#8 0xFF#8 7#16))).map
      (fun t => (t.csum, t.i, t.res)) = some (0#8, 6#5, 7#16) := by decide
/-- P1, offset 9. -/
theorem test_dfn6to7 :
    (nextOf (exec .dfn6to7 (inParse t1 .data 7#5 0x11#8 0x3b#8 9#16))).map (fun t => (t.csum, t.i, t.ph)) =
      some (0x3e#8, 8#5, .data) := by decide
/-- N2. -/
theorem test_dfn8to15_wraps :
    (nextOf (exec .dfn8to15 (inParse t1 .data 8#5 0x11#8 0x3e#8 9#16))).map (fun t => (t.csum, t.i, t.ph)) =
      some (0x2c#8, 9#5, .data) := by decide
/-- N7, the last cell. -/
theorem test_dfn16to31_last_cell :
    (nextOf (exec .dfn16to31 (inParse [0x16#8, 0x12#8] .data 17#5 0x12#8 0x33#8 0#16))).map (fun t => (t.csum, t.i, t.ph)) =
      some (0x33#8, 18#5, .chk) := by decide
/-- N9, beyond it. -/
theorem test_dfn16to31_beyond :
    (nextOf (exec .dfn16to31 (inParse [0x16#8, 0x13#8] .data 18#5 0x13#8 0x45#8 0#16))).map (fun t => (t.outcome, t.csum)) =
      some (.error (.malformedLength 0x13#8), 0x45#8) := by decide
/-- D3. -/
theorem test_dfh :
    (nextOf (exec .dfh (inParse [0#8, 0#8, 0#8, 0#8, 0#8, 0xFF#8] .data 3#5 0x11#8 0x30#8 0#16))).map
      (fun t => (t.res, t.csum, t.i, t.ph)) = some (0xFF00#16, 0x2F#8, 4#5, .data) := by decide
/-- E3. -/
theorem test_dfl :
    (nextOf (exec .dfl (inParse [0#8, 0#8, 0#8, 0#8, 0#8, 0#8, 0xFF#8] .data 4#5 0x11#8 0x2F#8 0xFF00#16))).map
      (fun t => (t.res, t.csum, t.i, t.ph)) = some (0xFFFF#16, 0x2E#8, 5#5, .data) := by decide
/-- K1. -/
theorem test_chk_ok :
    (nextOf (exec .chk (inParse t1 .chk 17#5 0x11#8 0xA5#8 9#16))).map (fun t => (t.hostSTATUS, t.hostRES, t.ph)) =
      some (some 0#3, some 9#16, .idle) := by decide
/-- K4: equal bytes do not verify. -/
theorem test_chk_equal_bytes :
    (nextOf (exec .chk (inParse (t1.set 19 0xA5#8) .chk 17#5 0x11#8 0xA5#8 9#16))).map
      (fun t => (t.hostSTATUS, t.hostINFO0, t.hostINFO1, t.hostRES)) =
      some (some 3#3, some 0xA5#8, some 0xA5#8, none) := by decide

/-! ### Host operations and the driver -/

theorem test_parse_starts :
    (nextOf (exec .parse { State.reset with ov := true, res := 7#16, i := 9#5 })).map (fun t => (t.ov, t.res, t.ph, t.i)) =
      some (false, 0#16, .hdr, 0#5) := by decide
theorem test_parse_overlap : refusalOf (exec .parse (inParse t1 .hdr 0#5 0#8 0#8 0#16)) = some .overlappingStart := by decide
theorem test_readPm25_starts :
    (nextOf (exec .readPm25 { State.reset with ov := true })).map (fun t => (t.ov, t.ts, t.reading)) =
      some (false, .idle, true) := by decide
theorem test_readPm25_overlap : refusalOf (exec .readPm25 (inRead .idle [] [])) = some .overlappingStart := by decide
/-- W1: the request bytes, lowest offset first. -/
theorem test_sendCommand_ok :
    (nextOf (exec .sendCommand (inRead .idle [.ok] []))).map (fun t => (t.ts, t.transport.sent, t.transport.calls)) =
      some (.awaitingResponse, [0x11#8, 0x02#8, 0x0b#8, 0x01#8, 0xe1#8],
        [.write [0x11#8, 0x02#8, 0x0b#8, 0x01#8, 0xe1#8]]) := by decide
/-- W2, with two bytes emitted. -/
theorem test_sendCommand_err :
    (nextOf (exec .sendCommand (inRead .idle [.err { token := 1 } 2] []))).map
      (fun t => (t.hostSTATUS, t.hostTERR, t.ts, t.transport.sent)) =
      some (some 5#3, some { token := 1 }, .idle, [0x11#8, 0x02#8]) := by decide
/-- W1, W10. -/
theorem test_readResponse_ok :
    (nextOf (exec .readResponse (inRead .awaitingResponse [] [.ok t1Frame]))).map
      (fun t => (t.ts, (List.range 20).map t.rb.byte, t.transport.calls)) =
      some (.parsing, t1, [.read 20]) := by decide
theorem test_readResponse_waits :
    (nextOf (exec .readResponse (inRead .awaitingResponse [] []))).map (fun t => (t.ts, t.ov, t.call)) =
      some (.awaitingResponse, false, some (.read 20)) := by decide
theorem test_parseInvoke :
    (nextOf (exec .parseInvoke { inRead .parsing [] [] with res := 3#16 })).map (fun t => (t.ph, t.i, t.res, t.ts, t.ov)) =
      some (.hdr, 0#5, 0#16, .parsing, false) := by decide
theorem test_idle_block_stays : nextOf (step State.reset) = some State.reset := by decide

/-! ### The closed form (95_test_vectors.md section 2.2) -/

/-- V1, V2 and V9. -/
theorem test_closed_ok :
    parseClosed (buf t1) = .ok 9#16 ∧ parseClosed (buf ((t1.set 5 1#8).set 19 0x5a#8)) = .ok 265#16 ∧
    parseClosed (buf (p2 ++ List.replicate 12 0xAA#8)) = .ok 515#16 := by decide
/-- V7, V10, V11 and V28. -/
theorem test_closed_errors :
    parseClosed (buf [0x16#8, 0#8, 0x0b#8]) = .error (.invalidChecksum 0x0b#8 0x16#8) ∧
    parseClosed (buf [0x16#8, 0x12#8, 0x0b#8]) = .error (.malformedLength 0x12#8) ∧
    parseClosed (buf [0x16#8, 0xFF#8, 0x0c#8]) = .error (.invalidCommandResponse 0x0c#8) ∧
    parseClosed (buf (t1.set 1 0x10#8)) = .error (.invalidChecksum 0x37#8 0x6d#8) := by decide

/-! ### Witnesses -/

theorem witness_decoder : Format.drv.wellFormed 2 = true ∧ Format.drv.wellFormed 3 = false ∧ decode .pos 0x7F = .ok .chk := by
  decide
theorem witness_row_matches : Instr.dfn6to7.matchesWord .pos 0x47 = true := by decide
theorem witness_memRead : (19#9).toNat ≤ 19 ∧ 20 ≤ (20#9).toNat ∧ 20 ≤ (257#9).toNat := by decide
theorem witness_onlyReadResponseWrites :
    Instr.sendCommand ≠ .readResponse ∧ (nextOf (exec .sendCommand (inRead .idle [.ok] []))).isSome = true := by decide
theorem witness_hdr :
    (inParse t1 .hdr 0#5 0#8 0#8 0#16).rb.byte 0 = 0x16#8 ∧
    (inParse [0x17#8] .hdr 0#5 0#8 0#8 0#16).rb.byte 0 ≠ 0x16#8 := by decide
/-- At the lowest and the highest index whose cell exists. -/
theorem witness_cmd :
    ((inParse t1 .data 0#5 0x11#8 0#8 0#16).i.toNat ≤ 17 ∧ (inParse t1 .data 0#5 0x11#8 0#8 0#16).rb.byte (2 + 0) = 0x0b#8) ∧
    ((inParse t1 .data 17#5 0x12#8 0#8 0#16).i.toNat ≤ 17 ∧
      (inParse t1 .data 17#5 0x12#8 0#8 0#16).rb.byte (2 + 17) ≠ 0x0b#8) := by decide
theorem witness_dfn :
    Instr.dfn16to31 ∈ [Instr.dfn1, .dfn2, .dfn5, .dfn6to7, .dfn8to15, .dfn16to31] ∧
    (inParse t1 .data 17#5 0x12#8 0#8 0#16).i.toNat ≤ 17 ∧ 18 ≤ (inParse t1 .data 18#5 0x13#8 0#8 0#16).i.toNat := by decide
theorem witness_dfh_dfl :
    (inParse t1 .data 3#5 0x11#8 0#8 0#16).i.toNat ≤ 17 ∧ (inParse t1 .data 17#5 0x11#8 0#8 0#16).i.toNat ≤ 17 := by decide
theorem witness_beyond :
    Instr.dfl ∈ [Instr.cmd, .dfh, .dfl] ∧ 18 ≤ (inParse t1 .data 18#5 0x13#8 0#8 0#16).i.toNat := by decide
/-- N = 17 with and without a checksum that cancels, and N = 18. -/
theorem witness_chk :
    ((inParse t1 .chk 17#5 17#8 0xA5#8 9#16).len.toNat ≤ 17 ∧
      (inParse t1 .chk 17#5 17#8 0xA5#8 9#16).rb.byte (2 + 17) + 0xA5#8 = 0#8) ∧
    ((inParse t1 .chk 17#5 17#8 0xA6#8 9#16).len.toNat ≤ 17 ∧
      (inParse t1 .chk 17#5 17#8 0xA6#8 9#16).rb.byte (2 + 17) + 0xA6#8 ≠ 0#8) ∧
    18 ≤ (inParse t1 .chk 18#5 18#8 0#8 0#16).len.toNat := by decide

/-- A sound codec state at loop index 3 (P2, before `DFH`). -/
theorem witness_codecSound_dfh : CodecSound (inParse p2 .data 3#5 5#8 0x26#8 0#16) :=
  ⟨by decide, by decide, by decide, by decide, by decide, by decide, by decide⟩
/-- A sound codec state at loop index 4 (P2, before `DFL`). -/
theorem witness_codecSound_dfl : CodecSound (inParse p2 .data 4#5 5#8 0x28#8 0x0200#16) :=
  ⟨by decide, by decide, by decide, by decide, by decide, by decide, by decide⟩
/-- A sound codec state before `CHK` (P2). -/
theorem witness_codecSound_chk : CodecSound (inParse p2 .chk 5#5 5#8 0x2B#8 0x0203#16) :=
  ⟨by decide, by decide, by decide, by decide, by decide, by decide, by decide⟩

theorem witness_microFrame :
    (nextOf (exec .dfh (inParse p2 .data 3#5 5#8 0x26#8 0#16))).map (·.ph) = some .data ∧
    (nextOf (exec .chk (inParse p2 .chk 5#5 5#8 0x2B#8 0x0203#16))).map (·.ph) = some .idle := by decide
theorem witness_raising :
    (inParse [0x17#8] .hdr 0#5 0#8 0#8 0#16).outcome ≠ .error (.invalidHeader 0x17#8) ∧
    (nextOf (exec .hdr (inParse [0x17#8] .hdr 0#5 0#8 0#8 0#16))).map (·.outcome) =
      some (.error (.invalidHeader 0x17#8)) := by decide
theorem witness_starts :
    (State.reset.ph = .idle ∧ State.reset.ts = .idle ∧ State.reset.reading = false) ∧
    (inRead .idle [] []).reading = true ∧ (inParse t1 .chk 0#5 0#8 0#8 0#16).ph ≠ .idle := by decide
/-- The least and the greatest number of request bytes emitted. -/
theorem witness_send :
    (inRead .idle [.ok] []).transport.writeAnswers = [.ok] ∧
    (inRead .idle [.err { token := 0 } 0] []).transport.writeAnswers = [.err { token := 0 } 0] ∧
    (inRead .idle [.err { token := 0 } 5] []).transport.writeAnswers = [.err { token := 0 } 5] := by decide
theorem witness_receive :
    (inRead .awaitingResponse [] [.ok t1Frame]).rb.wf = true ∧
    (inRead .awaitingResponse [] [.ok t1Frame]).transport.readAnswers = [.ok t1Frame] ∧
    (inRead .awaitingResponse [] [.err { token := 3 } t1Frame]).transport.readAnswers = [.err { token := 3 } t1Frame] := by
  decide
/-- A short delivery of no byte and one of nineteen. -/
theorem witness_short :
    (inRead .awaitingResponse [] [.short 0 t1Frame]).rb.wf = true ∧
    (nextOf (exec .readResponse (inRead .awaitingResponse [] [.short 19 t1Frame]))).map
      (fun t => (t.rb.byte 18, t.rb.byte 19, t.ts)) = some (0x37#8, 0#8, .parsing) := by decide
theorem witness_unanswered :
    (inRead .idle [] []).transport.writeAnswers = [] ∧ (inRead .awaitingResponse [] []).transport.readAnswers = [] := by decide
theorem witness_never_ends :
    (inRead .idle [] []).serialised ∧ (inRead .idle [] []).ph = .idle ∧ (inRead .idle [] []).reading = true ∧
    (inRead .idle [] []).ov = false ∧ (inRead .idle [] []).ts = .idle ∧ (inRead .awaitingResponse [] []).ts = .awaitingResponse :=
  ⟨fun _ h => (List.not_mem_nil h).elim, rfl, rfl, rfl, rfl, rfl⟩
theorem witness_startFrame :
    [(Instr.parse, State.reset), (.readPm25, State.reset), (.parseInvoke, inRead .parsing [] []),
      (.sendCommand, inRead .idle [.ok] [])].all (fun p => (nextOf (exec p.1 p.2)).isSome) = true := by decide
/-- A wait, a delivery, and short deliveries of no byte (every offset stays) and of nineteen (offset 19 stays). -/
theorem witness_readFrame :
    (nextOf (exec .readResponse (inRead .awaitingResponse [] []))).isSome = true ∧
    (nextOf (exec .readResponse (inRead .awaitingResponse [] [.ok t1Frame]))).isSome = true ∧
    (inRead .awaitingResponse [] [.short 0 t1Frame]).rb.wf = true ∧ (0 : Fin 20) ≤ 0 ∧
    (nextOf (exec .readResponse (inRead .awaitingResponse [] [.short 0 t1Frame]))).isSome = true ∧
    (inRead .awaitingResponse [] [.short 19 t1Frame]).rb.wf = true ∧ (19 : Fin 20) ≤ 19 ∧
    (nextOf (exec .readResponse (inRead .awaitingResponse [] [.short 19 t1Frame]))).isSome = true := by decide
/-- The four cases of a step: a start of the host, a micro-operation, a driver sub-operation, an idle block. -/
theorem witness_step :
    { State.reset with host := [{ op := .parse, waits := true }] }.hostStart = some .parse ∧
    ((inParse t1 .data 3#5 0x11#8 0#8 0#16).hostStart = none ∧ (inParse t1 .data 3#5 0x11#8 0#8 0#16).ph ≠ .idle ∧
      decode .pos (inParse t1 .data 3#5 0x11#8 0#8 0#16).pw.toNat = .ok .dfh) ∧
    ((inRead .parsing [] []).hostStart = none ∧ (inRead .parsing [] []).ph = .idle ∧
      decode .drv (inRead .parsing [] []).ts.code.toNat = .ok .parseInvoke) ∧
    (State.reset.hostStart = none ∧ State.reset.ph = .idle ∧ State.reset.reading = false) := by decide
theorem witness_serialised : { State.reset with host := [{ op := .readPm25, waits := true }] }.serialised := by
  intro h hm; simp at hm; rw [hm]
/-- A host that breaks R108 is refused. -/
theorem witness_not_serialised :
    refusalOf (step { inRead .idle [] [] with host := [{ op := .parse, waits := false }] }) = some .overlappingStart := by decide
theorem witness_sequencerSound :
    SequencerSound { State.reset with ov := true } ∧ { State.reset with ov := true }.ov = true ∧
    { State.reset with ov := true }.hostStart = none :=
  ⟨⟨fun _ => ⟨rfl, rfl, rfl⟩, fun h => absurd rfl h, fun h => absurd rfl h, (fun _ h => nomatch h)⟩, rfl, rfl⟩
/-- A sound sequencer blocked in the write, and its step. -/
theorem witness_sequencerSound_blocked :
    SequencerSound { inRead .idle [] [] with call := some (.write REQ) } ∧
    (nextOf (step { inRead .idle [] [] with call := some (.write REQ) })).isSome = true :=
  ⟨⟨(fun h => nomatch h), fun h => absurd rfl h, fun h => absurd rfl h,
    fun c h => ⟨rfl, rfl, .inl ⟨rfl, (Option.some.inj h).symm⟩⟩⟩, by decide⟩
theorem witness_codec_step :
    CodecSound (inParse p2 .data 4#5 5#8 0x28#8 0x0200#16) ∧
    (nextOf (step (inParse p2 .data 4#5 5#8 0x28#8 0x0200#16))).isSome = true := ⟨witness_codecSound_dfl, by decide⟩
/-- An ended operation with a valid `Ok` outcome. -/
theorem witness_outcomeSound :
    SequencerSound { State.reset with ov := true, res := 9#16, outcome := .ok 9#16 } ∧
    OutcomeSound { State.reset with ov := true, res := 9#16, outcome := .ok 9#16 } ∧
    (nextOf (step { State.reset with ov := true, res := 9#16, outcome := .ok 9#16 })).isSome = true :=
  ⟨⟨fun _ => ⟨rfl, rfl, rfl⟩, fun h => absurd rfl h, fun h => absurd rfl h, (fun _ h => nomatch h)⟩,
    fun _ _ h => OpOutcome.ok.inj h, by decide⟩
theorem witness_rb_wf : (buf t1).wf = true ∧ (nextOf (step State.reset)).isSome = true := by decide
theorem witness_parse_run :
    { State.reset with rb := buf t1 }.serialised ∧ (nextOf (exec .parse { State.reset with rb := buf t1 })).isSome = true ∧
    parseClosed (buf t1) = .ok 9#16 :=
  ⟨fun _ h => (List.not_mem_nil h).elim, by decide, by decide⟩

/-- A quiet block over a transport with these answers. -/
def quietOver (w : List WriteAnswer) (r : List ReadAnswer) : State :=
  { State.reset with transport := { writeAnswers := w, readAnswers := r, sent := [], calls := [] } }

theorem witness_read_run :
    (quietOver [.ok] [.ok t1Frame]).serialised ∧ (quietOver [.ok] [.ok t1Frame]).rb.wf = true ∧
    (quietOver [.ok] [.ok t1Frame]).call = none ∧ (nextOf (exec .readPm25 (quietOver [.ok] [.ok t1Frame]))).isSome = true ∧
    (quietOver [.ok] [.ok t1Frame]).transport.writeAnswers = .ok :: [] ∧
    (quietOver [.ok] [.ok t1Frame]).transport.readAnswers = .ok t1Frame :: [] :=
  ⟨fun _ h => (List.not_mem_nil h).elim, rfl, rfl, by decide, rfl, rfl⟩
theorem witness_failed_write :
    (quietOver [.err { token := 2 } 3] []).serialised ∧ (quietOver [.err { token := 2 } 3] []).call = none ∧
    (nextOf (exec .readPm25 (quietOver [.err { token := 2 } 3] []))).isSome = true :=
  ⟨fun _ h => (List.not_mem_nil h).elim, rfl, by decide⟩
theorem witness_failed_read :
    (quietOver [.ok] [.err { token := 2 } t1Frame]).serialised ∧ (quietOver [.ok] [.err { token := 2 } t1Frame]).call = none ∧
    (nextOf (exec .readPm25 (quietOver [.ok] [.err { token := 2 } t1Frame]))).isSome = true :=
  ⟨fun _ h => (List.not_mem_nil h).elim, rfl, by decide⟩
/-- P2 with and without its trailing bytes: they agree up to the checksum byte and differ after it. -/
theorem witness_cells_after :
    (∀ a, a ≤ 2 + ((buf p2).byte 1).toNat → a < 20 → (buf (p2 ++ [0xAA#8])).byte a = (buf p2).byte a) ∧
    (buf (p2 ++ [0xAA#8])).byte 8 ≠ (buf p2).byte 8 := by decide
/-- V1 and V21. -/
theorem witness_unused :
    (∀ a ∈ [0, 1, 2, 5, 6], (buf (((t1.set 3 0x12#8).set 10 0#8).set 19 0x37#8)).byte a = (buf t1).byte a) ∧
    parseClosed (buf t1) = .ok 9#16 ∧ parseClosed (buf (((t1.set 3 0x12#8).set 10 0#8).set 19 0x37#8)) = .ok 9#16 := by decide
/-- V6, V7. -/
theorem witness_zero_length :
    ((buf [0x16#8, 0#8, 0xEA#8]).byte 0 = 0x16#8 ∧ (buf [0x16#8, 0#8, 0xEA#8]).byte 1 = 0#8 ∧
      (buf [0x16#8, 0#8, 0xEA#8]).byte 2 = 0xEA#8) ∧ (buf [0x16#8, 0#8, 0x0b#8]).byte 2 ≠ 0xEA#8 := by decide
/-- V17 (N = 3), V8 (N = 4), V9 (N = 5). -/
theorem witness_ok_by_length :
    parseClosed (buf [0x16#8, 3#8, 0x0b#8, 0x7f#8, 0x80#8, 0xdd#8]) = .ok 0#16 ∧
    parseClosed (buf [0x16#8, 4#8, 0x0b#8, 0#8, 0#8, 2#8, 0xd9#8]) = .ok 512#16 ∧ parseClosed (buf p2) = .ok 515#16 := by decide
/-- V12; N = 1 with a wrong echo (V19); N = 18 (V10). -/
theorem witness_first_check :
    (buf [0x17#8, 0xFF#8, 0x0c#8]).byte 0 ≠ 0x16#8 ∧
    ((buf [0x16#8, 1#8, 0x0c#8]).byte 0 = 0x16#8 ∧ 1 ≤ ((buf [0x16#8, 1#8, 0x0c#8]).byte 1).toNat ∧
      (buf [0x16#8, 1#8, 0x0c#8]).byte 2 ≠ 0x0b#8) ∧
    ((buf [0x16#8, 18#8, 0x0b#8]).byte 2 = 0x0b#8 ∧ 18 ≤ ((buf [0x16#8, 18#8, 0x0b#8]).byte 1).toNat) := by decide
/-- Nothing is visible after reset; each kind's code is visible while `OV = 1`. -/
theorem witness_host_sees :
    State.reset.ov = false ∧
    [OpOutcome.ok 1#16, .error (.invalidHeader 1#8), .error (.invalidCommandResponse 1#8), .error (.invalidChecksum 1#8 2#8),
      .error (.serialReadFail { token := 1 }), .error (.serialWriteFail { token := 1 }), .error (.malformedLength 18#8)].map
        (fun o => { State.reset with ov := true, outcome := o }.hostSTATUS) =
      [some 0#3, some 1#3, some 2#3, some 3#3, some 4#3, some 5#3, some 6#3] := by decide

/-- R19: which kinds assign `INFO0`, `INFO1` and `TERR`. -/
theorem test_host_information :
    [OpOutcome.ok 1#16, .error (.invalidHeader 1#8), .error (.invalidCommandResponse 1#8), .error (.invalidChecksum 1#8 2#8),
      .error (.serialReadFail { token := 1 }), .error (.serialWriteFail { token := 1 }), .error (.malformedLength 18#8)].map
        (fun o => let s := { State.reset with ov := true, outcome := o }
          (s.hostINFO0.isSome, s.hostINFO1.isSome, s.hostTERR.isSome)) =
      [(false, false, false), (true, false, false), (true, false, false), (true, true, false), (false, false, true),
        (false, false, true), (true, false, false)] := by decide

end Sys2Proof.Tests
end

section
/-! PROOFS. The values a frame can carry (00_scope.md R7): when the closed form of `PARSE` is `Ok`, and the frame that carries
a given value. -/

namespace Sys2Proof.Machine

/-! ### Two bytes as a measurement -/

/-- The two halves of a measurement do not overlap, so the sum of 30_encoding.md R54 is a concatenation and never wraps. -/
theorem addLowHalf_highHalf (h l : Byte) : addLowHalf (highHalf h) l = h ++ l := by
  apply BitVec.eq_of_toNat_eq
  have hh := h.isLt
  have hl := l.isLt
  have happend : (h ++ l).toNat = h.toNat * 256 + l.toNat := by
    rw [BitVec.toNat_append, ← Nat.shiftLeft_add_eq_or_of_lt hl, Nat.shiftLeft_eq]
  rw [happend, addLowHalf, highHalf]
  simp only [BitVec.toNat_add, BitVec.toNat_mul, BitVec.toNat_setWidth, BitVec.toNat_ofNat]
  omega

/-- A measurement is its high byte followed by its low byte. -/
theorem highByte_append_lowByte (v : Measurement) : v.extractLsb' 8 8 ++ v.extractLsb' 0 8 = v := by
  rw [BitVec.extractLsb'_append_extractLsb'_eq_extractLsb' (by rfl)]
  exact BitVec.extractLsb'_eq_self

/-! ### When the closed form is `Ok` -/

/-- A length of at least 5 gives both bytes of the measurement (40_frame_codec.md R83). -/
theorem Memory.measured_of_five_le (m : Memory) {n : Nat} (h : 5 ≤ n) : m.measured n = m.byte 5 ++ m.byte 6 := by
  have h4 : 4 ≤ n := by omega
  rw [Memory.measured, if_pos h4, if_pos h, addLowHalf_highHalf]

/-- The four checks of 40_frame_codec.md R79, in their order, and the value where all pass. -/
theorem parseClosed_eq_ok_iff (m : Memory) (v : Measurement) :
    parseClosed m = .ok v ↔
      m.byte 0 = HDR_RESP ∧ (1 ≤ (m.byte 1).toNat → m.byte 2 = CMD_CODE) ∧ (m.byte 1).toNat ≤ N_MAX ∧
        m.sumFirst (3 + (m.byte 1).toNat) = 0#8 ∧ v = m.measured (m.byte 1).toNat := by
  have hsum : m.sumFirst (3 + (m.byte 1).toNat) =
      csumAdd (m.byte (2 + (m.byte 1).toNat)) (m.sumFirst (2 + (m.byte 1).toNat)) := by
    rw [show 3 + (m.byte 1).toNat = 2 + (m.byte 1).toNat + 1 by omega, Memory.sumFirst]
    exact BitVec.add_comm _ _
  rw [hsum]
  simp only [parseClosed]
  by_cases hhdr : m.byte 0 = HDR_RESP
  · by_cases hcmd : 1 ≤ (m.byte 1).toNat ∧ m.byte 2 ≠ CMD_CODE
    · simp [hhdr, hcmd]
    · by_cases hlen : N_MAX < (m.byte 1).toNat
      · have hlong : ¬ (m.byte 1).toNat ≤ N_MAX := Nat.not_le_of_gt hlen
        simp [hhdr, hcmd, hlen, hlong]
      · by_cases hchk : csumAdd (m.byte (2 + (m.byte 1).toNat)) (m.sumFirst (2 + (m.byte 1).toNat)) = 0#8
        · have hecho : 1 ≤ (m.byte 1).toNat → m.byte 2 = CMD_CODE := by simpa using hcmd
          have hfits : (m.byte 1).toNat ≤ N_MAX := Nat.le_of_not_lt hlen
          rw [if_neg (not_not_intro hhdr), if_neg hcmd, if_neg hlen, if_neg (not_not_intro hchk), OpOutcome.ok.injEq]
          exact ⟨fun h => ⟨hhdr, hecho, hfits, hchk, h.symm⟩, fun ⟨_, _, _, _, h⟩ => h.symm⟩
        · simp [hhdr, hcmd, hlen, hchk]
  · simp [hhdr]

/-! ### The frame that carries a value -/

/-- The shortest frame with both bytes of the measurement (`N = 5`), its checksum byte computed (40_frame_codec.md R88). -/
def measurementFrame (v : Measurement) : List Byte :=
  let h := v.extractLsb' 8 8
  let l := v.extractLsb' 0 8
  [HDR_RESP, 5#8, CMD_CODE, 0#8, 0#8, h, l, -(HDR_RESP + 5#8 + CMD_CODE + h + l)]

/-- Written over any canonical `RB`, the frame of `v` parses as `v`. -/
theorem parseClosed_writeFrom_measurementFrame {m : Memory} (hm : m.wf = true) (v : Measurement) :
    parseClosed (m.writeFrom 0 (measurementFrame v)) = .ok v := by
  have hbyte : ∀ k < 8, (m.writeFrom 0 (measurementFrame v)).byte k = (measurementFrame v).getD k 0#8 := by
    intro k hk
    rw [Memory.byte_writeFrom hm 0 (measurementFrame v) (show 0 + 8 ≤ RESP_LEN by decide),
      if_pos ⟨Nat.zero_le k, show k < 0 + 8 by omega⟩, Nat.sub_zero]
  generalize m.writeFrom 0 (measurementFrame v) = m' at hbyte
  have hlen : (m'.byte 1).toNat = 5 := by rw [hbyte 1 (by decide)]; rfl
  rw [parseClosed_eq_ok_iff, hlen]
  refine ⟨hbyte 0 (by decide), fun _ => hbyte 2 (by decide), by decide, ?_, ?_⟩
  · simp only [Memory.sumFirst, csumAdd, hbyte, measurementFrame, Nat.reduceLT, List.getD_cons_zero,
      List.getD_cons_succ, BitVec.zero_add, BitVec.add_zero]
    exact BitVec.add_right_neg _
  · rw [m'.measured_of_five_le (Nat.le_refl 5), hbyte 5 (by decide), hbyte 6 (by decide)]
    exact (highByte_append_lowByte v).symm

/-- Settles O51: the frame of `v`, delivered into the buffer after reset, is `Ok v` for every `v`. -/
theorem everyMeasurementIsReturned : Obligations.EveryMeasurementIsReturned := by
  intro v
  have hreset : State.reset.rb.wf = true := rfl
  exact ⟨State.reset.rb.writeFrom 0 (measurementFrame v), Memory.writeFrom_wf 0 _ hreset,
    parseClosed_writeFrom_measurementFrame hreset v⟩

end Sys2Proof.Machine
end

section
/-! PROOFS. What every step keeps about the end of an operation (10_state.md R18, R19, 60_exceptions.md R130), the position
word (30_encoding.md R56), and what reset leaves (10_state.md R26). -/

namespace Sys2Proof.Machine

/-! ### What a micro-operation can do -/

/-- What a micro-operation started in `s` leaves: it has raised from `s`, or has completed the `PARSE`, or has written codec
registers alone and goes on (40_frame_codec.md R71 to R77, 60_exceptions.md R128). -/
inductive MicroResult (s : State) : State → Prop where
  | raised (k : ErrorKind) : MicroResult s (s.raise k)
  | completed : MicroResult s s.complete
  | goesOn (len csum : Byte) (res : Measurement) (i : BitVec 5) (ph : Phase) (hph : ph ≠ .idle) :
      MicroResult s { s with len := len, csum := csum, res := res, i := i, ph := ph }

theorem State.advance_ph_ne_idle (s : State) : s.advance.ph ≠ .idle := by
  rw [State.advance_ph]; split <;> decide

/-- The loop test after any writes of codec registers goes on. -/
theorem MicroResult.advance (s : State) (len csum : Byte) (res : Measurement) (i : BitVec 5) :
    MicroResult s { s with len := len, csum := csum, res := res, i := i }.advance :=
  .goesOn len csum res i _ (State.advance_ph_ne_idle _)

/-- A micro-operation that starts with a read raises the read's error, or does what it does with the byte read. -/
theorem MicroResult.of_read {s t : State} {read : Except ErrorKind Byte} {f : Byte → Except ErrorKind State}
    (h : s.commit (read >>= f) = .next t) (hf : ∀ b, f b = .ok t → MicroResult s t) : MicroResult s t := by
  obtain hok | ⟨k, -, rfl⟩ := State.commit_next h
  · cases read with
    | ok b => exact hf b hok
    | error k => cases hok
  · exact .raised k

theorem State.dataFrame_result {s t : State} (h : s.dataFrame = .next t) : MicroResult s t := by
  obtain ⟨k, hraise⟩ | ⟨b, hnext⟩ := s.dataFrame_cases
  · cases hraise.symm.trans h; exact .raised k
  · cases hnext.symm.trans h; exact .advance s _ _ _ _

/-- `LEN` reads two cells that always exist, so it never raises (40_frame_codec.md R72). -/
theorem execLen_eq (s : State) :
    execLen s = .next { s with
      len := s.rb.byte 1, csum := csumAdd (s.rb.byte 0) (s.rb.byte 1), i := 0#5 }.advance := by
  unfold execLen
  rw [State.headerByte_eq, State.lengthByte_eq]
  rfl

/-- Every micro-operation that answers a next state raises, completes the `PARSE` or goes on. -/
theorem exec_pos_result {i : Instr} {s t : State} (hi : i.format = .pos) (h : exec i s = .next t) : MicroResult s t := by
  cases i with
  | hdr =>
    refine .of_read h fun b hb => ?_
    split at hb <;> cases hb
    exact .goesOn _ _ _ _ .len (by decide)
  | len =>
    cases (execLen_eq s).symm.trans h
    exact .advance s _ _ _ _
  | cmd =>
    refine .of_read h fun b hb => ?_
    split at hb <;> cases hb
    exact .advance s _ _ _ _
  | dfh => exact .of_read h fun b hb => by cases hb; exact .advance s _ _ _ _
  | dfl => exact .of_read h fun b hb => by cases hb; exact .advance s _ _ _ _
  | chk =>
    refine .of_read h fun b hb => ?_
    split at hb <;> cases hb
    exact .completed
  | dfn1 | dfn2 | dfn5 | dfn6to7 | dfn8to15 | dfn16to31 => exact State.dataFrame_result h
  | parse | readPm25 | sendCommand | readResponse | parseInvoke => cases hi

theorem blockInstr_format (i : BitVec 5) : (blockInstr i).format = .pos := by
  revert i; decide

/-- A position selects micro-operations only (30_encoding.md R57). -/
theorem Phase.instr_format {p : Phase} {k : BitVec 5} {i : Instr} (h : p.instr k = some i) : i.format = .pos := by
  cases p <;> cases h
  case data => exact blockInstr_format k
  all_goals rfl

/-! ### The outcome -/

/-- While `OV = 0` nothing is claimed of `RES`. -/
theorem OutcomeSound.of_ov_false {s : State} (h : s.ov = false) : OutcomeSound s := by
  intro hov
  rw [h] at hov
  cases hov

/-- Of an error nothing is claimed either. -/
theorem OutcomeSound.of_error {s : State} {k : ErrorKind} (h : s.outcome = .error k) : OutcomeSound s := by
  intro _ v hv
  rw [h] at hv
  cases hv

/-- `complete` writes `RES` itself as the measurement (40_frame_codec.md R77). -/
theorem State.complete_outcomeSound (s : State) : OutcomeSound s.complete := by
  intro _ v hv
  rw [State.complete_outcome] at hv
  cases hv
  exact s.complete_res

/-- A start of the host clears `OV`. -/
theorem execHost_ov {op : HostOp} {s t : State} (h : exec op.instr s = .next t) : t.ov = false := by
  obtain ⟨-, ⟨-, rfl⟩ | ⟨-, rfl⟩⟩ := execHost_next h <;> rfl

/-- A micro-operation that runs before there is an outcome leaves a sound one, or none. -/
theorem MicroResult.outcomeSound {s t : State} (h : MicroResult s t) (hov : s.ov = false) : OutcomeSound t := by
  cases h with
  | raised k => exact .of_error (s.raise_outcome k)
  | completed => exact s.complete_outcomeSound
  | goesOn => exact .of_ov_false hov

/-- A driver sub-operation writes no `Ok` outcome: it raises, or leaves `OV` as it was. -/
theorem execDriver_outcomeSound {ts : TState} {s t : State} (h : exec ts.instr s = .next t) (hov : s.ov = false) :
    OutcomeSound t := by
  cases ts with
  | idle =>
    obtain rfl | ⟨_, rfl⟩ | ⟨_, _, _, rfl⟩ := execSendCommand_next h
    · exact .of_ov_false (by simpa using hov)
    · exact .of_ov_false (by simpa using hov)
    · exact .of_error (State.raise_outcome _ _)
  | awaitingResponse =>
    obtain rfl | ⟨_, _, rfl⟩ | ⟨_, _, _, rfl⟩ := execReadResponse_next h
    · exact .of_ov_false (by simpa using hov)
    · exact .of_ov_false (by simpa using hov)
    · exact .of_error (State.raise_outcome _ _)
  | parsing =>
    obtain ⟨-, rfl⟩ := execParseInvoke_next h
    exact .of_ov_false hov

/-- An operation in progress has no outcome yet: its end is what writes `OV` (70_reset_and_hazards.md R158). -/
theorem SequencerSound.ov_false {s : State} (hs : SequencerSound s) (h : s.ph ≠ .idle ∨ s.reading = true) :
    s.ov = false := by
  cases hov : s.ov with
  | false => rfl
  | true =>
    obtain ⟨hph, -, hread⟩ := hs.endedIsIdle hov
    obtain hne | hreading := h
    · exact absurd hph hne
    · cases hread.symm.trans hreading

/-- Settles O38: an operation in progress has no outcome yet, and the one step that then writes an `Ok` outcome, `complete`,
takes its measurement from `RES`. -/
theorem stepKeepsOutcomeSound : Obligations.StepKeepsOutcomeSound := by
  intro s t hseq hout h
  obtain ⟨-, -, -, hidle⟩ | ⟨op, -, hstart⟩ | ⟨i, -, hph, hi, hcodec⟩ | ⟨-, -, hread, hdriver⟩ := step_cases h
  · cases hidle; exact hout
  · exact .of_ov_false (execHost_ov hstart.symm)
  · exact (exec_pos_result (Phase.instr_format hi) hcodec.symm).outcomeSound (hseq.ov_false (.inl hph))
  · exact execDriver_outcomeSound hdriver.symm (hseq.ov_false (.inr hread))

/-- The step of an idle block whose host starts nothing (log 3). -/
theorem step_idle {s : State} (h : s.hostStart = none) (hp : s.ph = .idle) (hr : s.reading = false) :
    step s = .next s := by
  unfold step; rw [State.fetch_idle h hp hr]

/-- Settles O34: an ended operation leaves the block idle, and an idle block stays as it is. -/
theorem outcomeStaysUntilTheNextStart : Obligations.OutcomeStaysUntilTheNextStart := by
  intro s hseq hov hstart
  obtain ⟨hph, -, hread⟩ := hseq.endedIsIdle hov
  exact step_idle hstart hph hread

/-! ### The position word -/

/-- The position word as a number: the low two bits of the phase's code above the five bits of the loop index. -/
theorem State.pw_toNat (s : State) : s.pw.toNat = s.ph.code.toNat % 4 * 32 + s.i.toNat := by
  rw [State.pw, BitVec.toNat_append, ← Nat.shiftLeft_add_eq_or_of_lt s.i.isLt, Nat.shiftLeft_eq,
    BitVec.extractLsb'_toNat, Nat.shiftRight_zero]

/-- `PH[2]` is 0 in `IDLE` alone. -/
theorem Phase.code_bit_two (p : Phase) : p.code.getLsbD 2 = true ↔ p ≠ .idle := by
  cases p <;> decide

/-- Settles O5: the word by its two parts, the codes by the table of 10_state.md R16. -/
theorem positionWordOfPhaseAndIndex : Obligations.PositionWordOfPhaseAndIndex :=
  ⟨State.pw_toNat, Phase.code_bit_two, rfl, rfl, rfl, rfl, rfl⟩

/-! ### Reset -/

/-- `RB` with no cell listed reads as `RB_INIT` at every offset (10_state.md R10). -/
theorem Memory.read?_of_no_cells (init : Frame) (a : Fin RESP_LEN) :
    ({ init := init, cells := [] } : Memory).read? a.val = some init[a] := by
  rw [Memory.read?_of_lt a.isLt]
  simp [Memory.byte, Memory.unlisted]

/-- No operation is in progress and no call is pending after reset, whatever the unspecified registers hold. -/
theorem State.resetWith_sequencerSound (c : ResetChoice) (th : Transport) (h : List HostStart) :
    SequencerSound (State.resetWith c th h) where
  endedIsIdle := by simp
  driverActive := by simp
  codecInDriver := by simp
  callPending := by simp

/-- Settles O39: reset lists no cell, leaves the block idle and clears `OV`, so no clause rests on an unspecified value. -/
theorem resetIsSound : Obligations.ResetIsSound := fun c th h =>
  { memory := rfl
    sequencer := State.resetWith_sequencerSound c th h
    codec := trivial
    outcome := .of_ov_false (State.resetWith_ov c th h) }

/-- Settles O40: the registers are those reset writes, and `RB` has no cell listed. -/
theorem resetLeaves : Obligations.ResetLeaves := fun c th h =>
  ⟨State.resetWith_ph c th h, State.resetWith_ts c th h, State.resetWith_ov c th h, rfl,
    Memory.read?_of_no_cells c.rbInit, State.resetWith_transport c th h, rfl⟩

end Sys2Proof.Machine
end

section
/-! PROOFS. The response buffer `RB` (20_memory.md): its bound check (R31), the one operation that writes it (R36), and the cells
the outcome of a `PARSE` depends on (R37). -/

namespace Sys2Proof.Machine

/-! ### The bound check -/

/-- Settles O6: the two laws of `memRead` and of `read?`, one on each side of the bound. -/
theorem memReadIsBoundChecked : Obligations.MemReadIsBoundChecked := by
  intro s a
  refine ⟨fun h => ?_, fun h => ?_⟩
  · have hlt : a.toNat < RESP_LEN := Nat.lt_succ_of_le h
    exact ⟨State.memRead_inRange hlt, Memory.read?_of_lt hlt⟩
  · exact ⟨State.memRead_outOfRange h, Memory.read?_of_ge h⟩

/-- A micro-operation that starts with a block byte raises where the cell does not exist, whatever it would do with the byte
(20_memory.md R31). -/
theorem State.commit_blockByte_outOfRange {s : State} (h : 18 ≤ s.i.toNat) (f : Byte → Except ErrorKind State) :
    s.commit (s.blockByte >>= f) = .next (s.raise (.malformedLength s.len)) := by
  rw [State.blockByte_outOfRange h]
  rfl

/-- Settles O16: each of the three starts with the block byte. -/
theorem blockReadsBeyondTheBufferRaise : Obligations.BlockReadsBeyondTheBufferRaise := by
  intro i hi s h
  simp only [List.mem_cons, List.not_mem_nil, or_false] at hi
  obtain rfl | rfl | rfl := hi
  · exact State.commit_blockByte_outOfRange h _
  · exact State.commit_blockByte_outOfRange h _
  · exact State.commit_blockByte_outOfRange h _

/-! ### What writes `RB` -/

/-- No micro-operation writes `RB`, however it ends. -/
theorem MicroResult.rb_eq {s t : State} (h : MicroResult s t) : t.rb = s.rb := by
  cases h with
  | raised k => exact s.raise_rb k
  | completed => exact s.complete_rb
  | goesOn => rfl

/-- A start of the host writes no cell of `RB`. -/
theorem execHost_rb {op : HostOp} {s t : State} (h : exec op.instr s = .next t) : t.rb = s.rb := by
  obtain ⟨-, ⟨-, rfl⟩ | ⟨-, rfl⟩⟩ := execHost_next h <;> rfl

/-- `SEND_COMMAND` writes no cell of `RB`, whatever the transport answers. -/
theorem execSendCommand_rb {s t : State} (h : execSendCommand s = .next t) : t.rb = s.rb := by
  obtain rfl | ⟨_, rfl⟩ | ⟨_, _, _, rfl⟩ := execSendCommand_next h
  all_goals exact s.issue_rb (.write REQ)

/-- Settles O9: by the format of the operation, from what each kind of operation can do. -/
theorem onlyReadResponseWritesRb : Obligations.OnlyReadResponseWritesRb := by
  intro i s t hi h
  cases i with
  | hdr | len | cmd | dfn1 | dfn2 | dfh | dfl | dfn5 | dfn6to7 | dfn8to15 | dfn16to31 | chk =>
    exact (exec_pos_result rfl h).rb_eq
  | parse => exact execHost_rb (op := .parse) h
  | readPm25 => exact execHost_rb (op := .readPm25) h
  | sendCommand => exact execSendCommand_rb h
  | readResponse => exact absurd rfl hi
  | parseInvoke =>
    obtain ⟨-, rfl⟩ := execParseInvoke_next h
    exact s.beginParse_rb

/-- `READ_RESPONSE` writes successive bytes from offset 0 on, none while it waits (41_transaction.md R101, R107). -/
theorem execReadResponse_rb_writeFrom {s t : State} (h : execReadResponse s = .next t) :
    ∃ bytes, t.rb = s.rb.writeFrom 0 bytes := by
  obtain rfl | ⟨bytes, _, rfl⟩ | ⟨_, bytes, _, rfl⟩ := execReadResponse_next h
  · exact ⟨[], s.issue_rb (.read RESP_LEN)⟩
  · exact ⟨bytes, rfl⟩
  · exact ⟨bytes, rfl⟩

/-- Whatever an operation does to `RB` is a run of writes from offset 0 on; of no byte, but for `READ_RESPONSE`. -/
theorem exec_rb_writeFrom {i : Instr} {s t : State} (h : exec i s = .next t) :
    ∃ bytes, t.rb = s.rb.writeFrom 0 bytes := by
  by_cases hi : i = .readResponse
  · subst hi
    exact execReadResponse_rb_writeFrom h
  · exact ⟨[], onlyReadResponseWritesRb i s t hi h⟩

/-- The same of a step: selecting the operation leaves `RB` alone. -/
theorem step_rb_writeFrom {s t : State} (h : step s = .next t) : ∃ bytes, t.rb = s.rb.writeFrom 0 bytes := by
  obtain ⟨-, -, -, hidle⟩ | ⟨op, -, hstart⟩ | ⟨i, -, -, -, hcodec⟩ | ⟨-, -, -, hdriver⟩ := step_cases h
  · cases hidle; exact ⟨[], rfl⟩
  · exact exec_rb_writeFrom (s := { s with host := s.host.tail }) hstart.symm
  · exact exec_rb_writeFrom hcodec.symm
  · exact exec_rb_writeFrom hdriver.symm

/-- Settles O35: a step changes `RB` by successive writes alone, and those keep the canonical form and `RB_INIT`. -/
theorem stepKeepsRbCanonical : Obligations.StepKeepsRbCanonical := by
  intro s t hwf h
  obtain ⟨bytes, hrb⟩ := step_rb_writeFrom h
  rw [hrb]
  exact ⟨Memory.writeFrom_wf 0 bytes hwf, Memory.writeFrom_init _ 0 bytes⟩

/-! ### The cells the outcome depends on -/

/-- The sum of the first `n` bytes depends on those bytes alone. -/
theorem Memory.sumFirst_congr {m m' : Memory} {n : Nat} (h : ∀ a < n, m'.byte a = m.byte a) :
    m'.sumFirst n = m.sumFirst n := by
  induction n with
  | zero => rfl
  | succ n ih => rw [Memory.sumFirst, Memory.sumFirst, ih fun a ha => h a (by omega), h n (by omega)]

/-- The value depends on the cells at 5 and 6 alone, on each only where the block reaches it (40_frame_codec.md R82, R83). -/
theorem Memory.measured_congr {m m' : Memory} {n : Nat} (h5 : 4 ≤ n → m'.byte 5 = m.byte 5)
    (h6 : 5 ≤ n → m'.byte 6 = m.byte 6) : m'.measured n = m.measured n := by
  have hhigh : (if 4 ≤ n then highHalf (m'.byte 5) else 0#16) = if 4 ≤ n then highHalf (m.byte 5) else 0#16 :=
    ite_congr rfl (fun hn => by rw [h5 hn]) fun _ => rfl
  have hlow : (if 5 ≤ n then m'.byte 6 else 0#8) = if 5 ≤ n then m.byte 6 else 0#8 :=
    ite_congr rfl h6 fun _ => rfl
  rw [Memory.measured, Memory.measured, hhigh, hlow]

/-- Settles O45: the first three bytes decide the early errors; a frame that fits agrees in its sum, its checksum byte and its
value. -/
theorem cellsAfterTheFrameDoNotMatter : Obligations.CellsAfterTheFrameDoNotMatter := by
  intro m m' h
  have h0 : m'.byte 0 = m.byte 0 := h 0 (by omega) (by decide)
  have h1 : m'.byte 1 = m.byte 1 := h 1 (by omega) (by decide)
  have h2 : m'.byte 2 = m.byte 2 := h 2 (by omega) (by decide)
  simp only [parseClosed, h0, h1, h2]
  by_cases hlong : N_MAX < (m.byte 1).toNat
  · simp only [if_pos hlong]
  · have hfits : (m.byte 1).toNat ≤ 17 := Nat.le_of_not_lt hlong
    have htrailing := h (2 + (m.byte 1).toNat) (by omega) (by omega)
    have hsum := Memory.sumFirst_congr (n := 2 + (m.byte 1).toNat) fun a ha => h a (by omega) (by omega)
    have hvalue := Memory.measured_congr (n := (m.byte 1).toNat) (fun hn => h 5 (by omega) (by decide))
      fun hn => h 6 (by omega) (by decide)
    rw [htrailing, hsum, hvalue]

end Sys2Proof.Machine
end

section
/-! PROOFS. The operation map (30_encoding.md R57, R58): the decoder answers an operation exactly where the operation's row
matches, every position word has its row, and each format's well-formed words are the ones decoded. -/

namespace Sys2Proof

/-! ### Rows and words -/

/-- The word of every operation decodes to it: the laws of Laws/PerInstr.lean, over all rows. -/
theorem decode_encodeWith (i : Instr) (x : BitVec 7) : decode i.format (i.encodeWith x).toNat = .ok i := by
  cases i with
  | hdr => exact Laws.RoundTrip.hdr x
  | len => exact Laws.RoundTrip.len x
  | cmd => exact Laws.RoundTrip.cmd x
  | dfn1 => exact Laws.RoundTrip.dfn1 x
  | dfn2 => exact Laws.RoundTrip.dfn2 x
  | dfh => exact Laws.RoundTrip.dfh x
  | dfl => exact Laws.RoundTrip.dfl x
  | dfn5 => exact Laws.RoundTrip.dfn5 x
  | dfn6to7 => exact Laws.RoundTrip.dfn6to7 x
  | dfn8to15 => exact Laws.RoundTrip.dfn8to15 x
  | dfn16to31 => exact Laws.RoundTrip.dfn16to31 x
  | chk => exact Laws.RoundTrip.chk x
  | parse => exact Laws.RoundTrip.parse x
  | readPm25 => exact Laws.RoundTrip.readPm25 x
  | sendCommand => exact Laws.RoundTrip.sendCommand x
  | readResponse => exact Laws.RoundTrip.readResponse x
  | parseInvoke => exact Laws.RoundTrip.parseInvoke x

theorem Instr.matchesWord_iff {i : Instr} {f : Format} {w : Nat} :
    i.matchesWord f w = true ↔ i.format = f ∧ BitVec.ofNat 7 w &&& i.maskBits = i.matchBits := by
  simp [Instr.matchesWord]

theorem Format.fits_iff {f : Format} {w : Nat} : f.fits w = true ↔ w < 2 ^ f.width := decide_eq_true_iff

theorem Format.lt_of_fits {f : Format} {w : Nat} (h : f.fits w = true) : w < 2 ^ 7 :=
  Nat.lt_of_lt_of_le (Format.fits_iff.mp h) (Nat.pow_le_pow_right (by decide) (by cases f <;> decide))

/-- The rows of `HOST` and `DRV` fix every bit of their format (30_encoding.md R58). -/
theorem Instr.maskBits_of_format_ne_pos {i : Instr} (h : i.format ≠ .pos) :
    i.maskBits = BitVec.ofNat 7 (2 ^ i.format.width - 1) := by
  cases i with
  | parse | readPm25 | sendCommand | readResponse | parseInvoke => rfl
  | _ => exact absurd rfl h

/-- A word its row matches is the row's fixed bits with the word's own don't-care bits: no bit is dropped. -/
theorem Instr.encodeWith_of_matchesWord {i : Instr} {f : Format} {w : Nat} (hfits : f.fits w = true)
    (h : i.matchesWord f w = true) : i.encodeWith (BitVec.ofNat 7 w) = BitVec.ofNat 7 w := by
  obtain ⟨rfl, hrow⟩ := Instr.matchesWord_iff.mp h
  by_cases hpos : i.format = .pos
  · rw [Instr.encodeWith, hpos, ← hrow]
    exact BitVec.and_or_distrib_left.symm.trans (by rw [BitVec.or_not_self, BitVec.and_allOnes])
  · have hfixed : i.encodeWith (BitVec.ofNat 7 w) = i.matchBits := by
      unfold Instr.encodeWith
      split
      · exact absurd ‹_› hpos
      all_goals rfl
    have hlt := Format.fits_iff.mp hfits
    rw [hfixed, ← hrow, Instr.maskBits_of_format_ne_pos hpos, ← BitVec.ofNat_and, Nat.and_two_pow_sub_one_eq_mod,
      Nat.mod_eq_of_lt hlt]

/-! ### The decoder -/

/-- The decoder answers an operation exactly where the word fits its format and the operation's row matches it. The table's order
does not matter: a matching row is found by `decode_encodeWith`. -/
theorem decode_eq_ok_iff {f : Format} {w : Nat} {i : Instr} :
    decode f w = .ok i ↔ f.fits w = true ∧ i.matchesWord f w = true := by
  constructor
  · intro h
    unfold decode at h
    split at h
    case isTrue hfits =>
      split at h <;> cases h
      next hfound => exact ⟨hfits, List.find?_some (p := fun j : Instr => j.matchesWord f w) hfound⟩
    case isFalse => cases h
  · rintro ⟨hfits, hrow⟩
    have hw : (BitVec.ofNat 7 w).toNat = w := Nat.mod_eq_of_lt (Format.lt_of_fits hfits)
    have h := decode_encodeWith i (BitVec.ofNat 7 w)
    rwa [Instr.encodeWith_of_matchesWord hfits hrow, (Instr.matchesWord_iff.mp hrow).1, hw] at h

theorem decode_of_not_fits {f : Format} {w : Nat} (h : f.fits w = false) : decode f w = .rejected .tooWide := by
  simp [decode, h]

theorem format_of_decode_eq_ok {f : Format} {w : Nat} {i : Instr} (h : decode f w = .ok i) : i.format = f :=
  (Instr.matchesWord_iff.mp (decode_eq_ok_iff.mp h).2).1

/-- At most one row of a format matches a word. -/
theorem Instr.eq_of_matchesWord {f : Format} {w : Nat} {i j : Instr} (hfits : f.fits w = true)
    (hi : i.matchesWord f w = true) (hj : j.matchesWord f w = true) : i = j :=
  Decoded.ok.inj ((decode_eq_ok_iff.mpr ⟨hfits, hi⟩).symm.trans (decode_eq_ok_iff.mpr ⟨hfits, hj⟩))

theorem Format.pos_fits (w : BitVec 7) : Format.pos.fits w.toNat = true := Format.fits_iff.mpr w.isLt

/-! ### The encoding obligations -/

/-- Settles O1: the seventeen rows and the two rejections, each evaluated on its written-out word. -/
theorem wordsSelectTheirOperations : Obligations.WordsSelectTheirOperations := by
  unfold Obligations.WordsSelectTheirOperations
  decide

/-- Settles O2: a decoded word is matched by its row, and so is the row's encoding. -/
theorem encodingsDecodeBack : Obligations.EncodingsDecodeBack := by
  refine ⟨decode_encodeWith, fun f w i h => ⟨format_of_decode_eq_ok h, ?_⟩⟩
  obtain ⟨hfits, hrow⟩ := decode_eq_ok_iff.mp h
  simpa using Instr.encodeWith_of_matchesWord hfits hrow

/-- The table of 30_encoding.md R57 by ranges of the position word. -/
def positionInstr (w : Nat) : Instr :=
  if w < 0x20 then .hdr
  else if w < 0x40 then .len
  else if w = 0x40 then .cmd
  else if w = 0x41 then .dfn1
  else if w = 0x42 then .dfn2
  else if w = 0x43 then .dfh
  else if w = 0x44 then .dfl
  else if w = 0x45 then .dfn5
  else if w ≤ 0x47 then .dfn6to7
  else if w ≤ 0x4F then .dfn8to15
  else if w ≤ 0x5F then .dfn16to31
  else .chk

/-- Every position word is matched by the row of its range. -/
theorem positionInstr_matchesWord (w : BitVec 7) : (positionInstr w.toNat).matchesWord .pos w.toNat = true := by
  revert w; decide

theorem decode_pos_eq_positionInstr (w : BitVec 7) : decode .pos w.toNat = .ok (positionInstr w.toNat) :=
  decode_eq_ok_iff.mpr ⟨Format.pos_fits w, positionInstr_matchesWord w⟩

/-- Settles O3: the row of the word's range matches it, and no other row of the format does. -/
theorem positionMapIsTheTable : Obligations.PositionMapIsTheTable := fun w =>
  ⟨decode_pos_eq_positionInstr w, fun _ _ => Instr.eq_of_matchesWord (Format.pos_fits w)⟩

/-- Every word that fits its format and is produced by some rule selects an operation. -/
theorem exists_decode_of_wellFormed {f : Format} {w : Nat} (h : f.wellFormed w = true) : ∃ i, decode f w = .ok i := by
  obtain ⟨hfits, hproduced⟩ := Bool.and_eq_true_iff.mp h
  have hlt := Format.fits_iff.mp hfits
  cases f with
  | pos => exact ⟨_, decode_pos_eq_positionInstr ⟨w, hlt⟩⟩
  | host =>
    have hcode : w < 2 := hlt
    obtain rfl | rfl : w = 0 ∨ w = 1 := by omega
    · exact ⟨.parse, rfl⟩
    · exact ⟨.readPm25, rfl⟩
  | drv =>
    have hcode : w < 4 := hlt
    obtain rfl | rfl | rfl | rfl : w = 0 ∨ w = 1 ∨ w = 2 ∨ w = 3 := by omega
    · exact ⟨.sendCommand, rfl⟩
    · exact ⟨.readResponse, rfl⟩
    · exact ⟨.parseInvoke, rfl⟩
    · cases hproduced

/-- The one word that fits its format and is produced by no rule is the driver code 0b11 (10_state.md R17). -/
theorem Format.produced_eq_false_iff {f : Format} {w : Nat} : f.produced w = false ↔ f = .drv ∧ w = 3 := by
  simp [Format.produced]

/-- Settles O4: a word that is not well-formed is too wide, or is the driver code 0b11. -/
theorem decoderAcceptsExactlyWellFormedWords : Obligations.DecoderAcceptsExactlyWellFormedWords := by
  refine fun f w => ⟨fun h => ?_, fun h => ?_⟩
  · obtain ⟨i, hi⟩ := exists_decode_of_wellFormed h
    exact ⟨i, hi, format_of_decode_eq_ok hi⟩
  · obtain hwide | hunused := Bool.and_eq_false_iff.mp h
    · exact ⟨.tooWide, decode_of_not_fits hwide⟩
    · obtain ⟨rfl, rfl⟩ := Format.produced_eq_false_iff.mp hunused
      exact ⟨.unusedDriverCode, rfl⟩

end Sys2Proof

namespace Sys2Proof.Machine

/-- Settles O32: every position word has its row, and so has every code of `TS` and of `OP`. -/
theorem everyPositionSelectsAnOperation : Obligations.EveryPositionSelectsAnOperation := fun s =>
  ⟨fun _ => ⟨_, decode_pos_eq_positionInstr s.pw⟩, ⟨_, decode_drv s.ts⟩, fun op => ⟨_, decode_host op⟩⟩

end Sys2Proof.Machine
end

section
/-! PROOFS. The bytes of a frame: the measurement (30_encoding.md R54), the checksum byte (R55) and the order of the checks
(R59). -/

namespace Sys2Proof.Machine

/-- Settles O7: the sum is the concatenation of the two bytes, whose number is below 65536. -/
theorem measurementIsBigEndian : Obligations.MeasurementIsBigEndian := by
  intro h l
  have happend : (h ++ l).toNat = h.toNat * 256 + l.toNat := by
    rw [BitVec.toNat_append, ← Nat.shiftLeft_add_eq_or_of_lt l.isLt, Nat.shiftLeft_eq]
  rw [addLowHalf_highHalf]
  exact ⟨rfl, happend⟩

/-- `(256 - S) mod 256` is the negation of `S` on 8 bits. -/
theorem checksumByte_eq_neg (c : Byte) : checksumByte c = -c := rfl

/-- Settles O8: a byte cancels the sum exactly when it is its negation. -/
theorem checksumByteIsTheOneThatCancels : Obligations.ChecksumByteIsTheOneThatCancels := fun c e =>
  calc checksumCancels e c = true
    _ ↔ e + c = 0#8 := beq_iff_eq
    _ ↔ e = 0#8 - c := BitVec.eq_sub_iff_add_eq.symm
    _ ↔ e = -c := by rw [BitVec.zero_sub]
    _ ↔ e = checksumByte c := by rw [checksumByte_eq_neg]

/-- Settles O50: each clause fails its own check of the closed form and passes those before it. -/
theorem firstFailingCheckDecides : Obligations.FirstFailingCheckDecides := by
  refine fun m => ⟨fun hhdr => if_pos hhdr, fun hhdr hlen hcmd => ?_, fun hhdr hcmd hlong => ?_⟩
  · have hheader : ¬ m.byte 0 ≠ HDR_RESP := not_not_intro hhdr
    exact (if_neg hheader).trans (if_pos ⟨hlen, hcmd⟩)
  · have hheader : ¬ m.byte 0 ≠ HDR_RESP := not_not_intro hhdr
    have hecho : ¬ (1 ≤ (m.byte 1).toNat ∧ m.byte 2 ≠ CMD_CODE) := fun h => h.2 hcmd
    exact (if_neg hheader).trans ((if_neg hecho).trans (if_pos hlong))

end Sys2Proof.Machine
end

section
/-! PROOFS. The micro-operations of the codec (40_frame_codec.md R71 to R77): the effect of each, what all of them leave
unchanged, and that none of them can fail to complete (R80). -/

namespace Sys2Proof.Machine

/-! ### The position words -/

/-- The two highest bits of a position word are its phase (30_encoding.md R56). -/
theorem positionWord_phaseBits_toNat (w : BitVec 7) : (w.extractLsb' 5 2).toNat = w.toNat / 32 := by
  have hw := w.isLt
  rw [BitVec.extractLsb'_toNat, Nat.shiftRight_eq_div_pow]
  omega

theorem decode_pos_of_phaseBits_hdr {w : BitVec 7} (h : w.extractLsb' 5 2 = 0b00#2) : decode .pos w.toNat = .ok .hdr := by
  have hbits : w.toNat / 32 = 0 := by rw [← positionWord_phaseBits_toNat, h]; rfl
  have hlow : w.toNat < 0x20 := by omega
  rw [decode_pos_eq_positionInstr, positionInstr, if_pos hlow]

theorem decode_pos_of_phaseBits_len {w : BitVec 7} (h : w.extractLsb' 5 2 = 0b01#2) : decode .pos w.toNat = .ok .len := by
  have hbits : w.toNat / 32 = 1 := by rw [← positionWord_phaseBits_toNat, h]; rfl
  have hlow : ¬ w.toNat < 0x20 := by omega
  have hhigh : w.toNat < 0x40 := by omega
  rw [decode_pos_eq_positionInstr, positionInstr, if_neg hlow, if_pos hhigh]

/-! ### `HDR` and `LEN` -/

/-- `HDR` reads a cell that always exists: it goes on to `LEN` or raises (40_frame_codec.md R71). -/
theorem execHdr_eq (s : State) :
    execHdr s = .next (if s.rb.byte 0 = HDR_RESP then s.setPc .len 0#5 else s.raise (.invalidHeader (s.rb.byte 0))) := by
  unfold execHdr
  rw [State.headerByte_eq]
  by_cases h : s.rb.byte 0 = HDR_RESP
  · rw [if_pos h, h]; rfl
  · have hmismatch : ¬ headerMatches (s.rb.byte 0) = true := fun hmatch => h (beq_iff_eq.mp hmatch)
    rw [if_neg h]
    exact congrArg s.commit (if_neg hmismatch)

/-- Settles O10: the row of the word, and the two sides of `execHdr_eq`. -/
theorem hdrChecksTheHeader : Obligations.HdrChecksTheHeader := by
  refine ⟨fun w => decode_pos_of_phaseBits_hdr, fun s => ⟨fun h => ?_, fun h => ?_⟩⟩
  · exact (execHdr_eq s).trans (congrArg _ (if_pos h))
  · exact (execHdr_eq s).trans (congrArg _ (if_neg h))

/-- Settles O11: `execLen_eq`, whose loop test is the zero-length branch of 40_frame_codec.md R72. -/
theorem lenLatchesAndInitialises : Obligations.LenLatchesAndInitialises := by
  refine ⟨fun w => decode_pos_of_phaseBits_len, fun s => (execLen_eq s).trans ?_⟩
  have htest : (0#5).setWidth 8 = s.rb.byte 1 ↔ s.rb.byte 1 = 0#8 := eq_comm
  simp only [State.advance, htest]
  rfl

/-! ### The block micro-operations: `CMD`, `DFN`, `DFH`, `DFL` -/

/-- The rows that read the block byte at the loop index (30_encoding.md R51). -/
def readsBlock : Instr → Bool
  | .cmd | .dfn1 | .dfn2 | .dfh | .dfl | .dfn5 | .dfn6to7 | .dfn8to15 | .dfn16to31 => true
  | _ => false

/-- What a row makes of `RES` with the block byte `b` (40_frame_codec.md R73 to R76). -/
def fieldAfter (i : Instr) (r : Measurement) (b : Byte) : Measurement :=
  if i = .dfh then highHalf b else if i = .dfl then addLowHalf r b else r

theorem fieldAfter_of_ne {i : Instr} (hh : i ≠ .dfh) (hl : i ≠ .dfl) (r : Measurement) (b : Byte) :
    fieldAfter i r b = r := by
  rw [fieldAfter, if_neg hh, if_neg hl]

/-- The state a row leaves that has accepted the block byte `b`. -/
def State.afterBlock (s : State) (i : Instr) (b : Byte) : State :=
  ({ s with res := fieldAfter i s.res b }.accumulate b).advance

/-- All nine rows do one thing with the block byte, but that `CMD` first compares it (40_frame_codec.md R73). -/
theorem exec_block_eq {i : Instr} (hi : readsBlock i = true) (s : State) :
    exec i s = s.commit (s.blockByte >>= fun b =>
      if i = .cmd ∧ b ≠ CMD_CODE then .error (.invalidCommandResponse b) else .ok (s.afterBlock i b)) := by
  cases i with
  | cmd =>
    refine congrArg s.commit (congrArg _ (funext fun b => ?_))
    by_cases h : b = CMD_CODE
    · subst h; rfl
    · have hmismatch : ¬ commandMatches b = true := fun hmatch => h (beq_iff_eq.mp hmatch)
      exact (if_neg hmismatch).trans (if_pos ⟨rfl, h⟩).symm
  | dfn1 | dfn2 | dfh | dfl | dfn5 | dfn6to7 | dfn8to15 | dfn16to31 => rfl
  | _ => cases hi

/-- While the cell exists and the echo, if it is compared, matches, the byte is accepted. -/
theorem exec_block_accepts {i : Instr} {s : State} (hi : readsBlock i = true) (h : s.i.toNat ≤ 17)
    (hecho : i = .cmd → s.rb.byte (2 + s.i.toNat) = CMD_CODE) :
    exec i s = .next (s.afterBlock i (s.rb.byte (2 + s.i.toNat))) := by
  have haccept : ¬ (i = .cmd ∧ s.rb.byte (2 + s.i.toNat) ≠ CMD_CODE) := fun hno => hno.2 (hecho hno.1)
  rw [exec_block_eq hi, State.blockByte_inRange (Nat.lt_succ_of_le h)]
  exact congrArg s.commit (if_neg haccept)

/-- `CMD` raises where the echo does not match (60_exceptions.md R122). -/
theorem exec_cmd_mismatch {s : State} (h : s.i.toNat ≤ 17) (hecho : s.rb.byte (2 + s.i.toNat) ≠ CMD_CODE) :
    exec .cmd s = .next (s.raise (.invalidCommandResponse (s.rb.byte (2 + s.i.toNat)))) := by
  rw [exec_block_eq rfl, State.blockByte_inRange (Nat.lt_succ_of_le h)]
  exact congrArg s.commit (if_pos ⟨rfl, hecho⟩)

/-- Where the cell does not exist every row raises (60_exceptions.md R126). -/
theorem exec_block_outOfRange {i : Instr} {s : State} (hi : readsBlock i = true) (h : 18 ≤ s.i.toNat) :
    exec i s = .next (s.raise (.malformedLength s.len)) := by
  rw [exec_block_eq hi]
  exact State.commit_blockByte_outOfRange h _

/-- Settles O12: the byte accumulated is the one compared. -/
theorem cmdChecksTheEcho : Obligations.CmdChecksTheEcho := by
  refine fun s hi => ⟨fun h => ?_, fun h => exec_cmd_mismatch hi h⟩
  rw [exec_block_accepts rfl hi fun _ => h, h]
  rfl

/-- Settles O13: the six rows neither compare the byte nor write `RES`. -/
theorem dfnAccumulates : Obligations.DfnAccumulates := by
  intro i hi s
  have hrow : ∀ j ∈ [Instr.dfn1, .dfn2, .dfn5, .dfn6to7, .dfn8to15, .dfn16to31],
      readsBlock j = true ∧ j ≠ .cmd ∧ j ≠ .dfh ∧ j ≠ .dfl := by decide
  obtain ⟨hblock, hcmd, hdfh, hdfl⟩ := hrow i hi
  refine ⟨fun h => ?_, fun h => exec_block_outOfRange hblock h⟩
  rw [exec_block_accepts hblock h fun hi => absurd hi hcmd, State.afterBlock, fieldAfter_of_ne hdfh hdfl]
  rfl

/-- A byte in the high half of a measurement is the byte followed by 0. -/
theorem highHalf_eq_append (b : Byte) : highHalf b = b ++ 0#8 := by
  rw [← addLowHalf_highHalf]
  exact (BitVec.add_zero _).symm

/-- Settles O14: the accepted byte, its high half written as a concatenation. -/
theorem dfhSetsTheHighByte : Obligations.DfhSetsTheHighByte := by
  intro s h
  rw [exec_block_accepts (i := .dfh) rfl h nofun, ← highHalf_eq_append]
  rfl

/-- Settles O15: `DFL` accepts every byte of a cell that exists. -/
theorem dflAddsTheLowByte : Obligations.DflAddsTheLowByte := fun _ h => exec_block_accepts rfl h nofun

/-! ### `CHK` -/

/-- `complete` as one record: inside a `READ_PM25` it ends the transaction too (41_transaction.md R102; log 1). -/
theorem State.complete_eq (s : State) :
    s.complete = { s with
      outcome := .ok s.res, ph := .idle, ts := if s.reading then .idle else s.ts, reading := false, ov := true } := by
  cases h : s.reading <;> simp [State.complete, State.endTransaction, h]

/-- Where the checksum byte exists, `CHK` completes or raises (40_frame_codec.md R77). -/
theorem execChk_inRange {s : State} (h : s.len.toNat ≤ 17) :
    execChk s = .next (if csumAdd (s.rb.byte (2 + s.len.toNat)) s.csum = 0#8 then s.complete
      else s.raise (.invalidChecksum (s.rb.byte (2 + s.len.toNat)) s.csum)) := by
  unfold execChk
  rw [State.trailingByte_inRange (Nat.lt_succ_of_le h)]
  by_cases hsum : csumAdd (s.rb.byte (2 + s.len.toNat)) s.csum = 0#8
  · have hcancel : checksumCancels (s.rb.byte (2 + s.len.toNat)) s.csum = true := beq_iff_eq.mpr hsum
    rw [if_pos hsum]
    exact congrArg s.commit (if_pos hcancel)
  · have hcancel : ¬ checksumCancels (s.rb.byte (2 + s.len.toNat)) s.csum = true := fun hc => hsum (beq_iff_eq.mp hc)
    rw [if_neg hsum]
    exact congrArg s.commit (if_neg hcancel)

theorem execChk_outOfRange {s : State} (h : 18 ≤ s.len.toNat) :
    execChk s = .next (s.raise (.malformedLength s.len)) := by
  unfold execChk
  rw [State.trailingByte_outOfRange h]
  rfl

/-- Settles O17: the two sides of the zero test, and the read beyond the buffer. -/
theorem chkVerifiesTheChecksum : Obligations.ChkVerifiesTheChecksum := by
  refine fun s => ⟨fun hlen hsum => ?_, fun hlen hsum => ?_, fun hlen => execChk_outOfRange hlen⟩
  · have hok : execChk s = .next s.complete := (execChk_inRange hlen).trans (congrArg _ (if_pos hsum))
    exact hok.trans (congrArg _ s.complete_eq)
  · exact (execChk_inRange hlen).trans (congrArg _ (if_neg hsum))

/-! ### All twelve rows -/

theorem format_eq_pos_of_mem : ∀ i ∈ [Instr.hdr, .len, .cmd, .dfn1, .dfn2, .dfh, .dfl, .dfn5, .dfn6to7, .dfn8to15,
    .dfn16to31, .chk], i.format = .pos := by decide

/-- A micro-operation is committed, whatever it computes. -/
theorem exec_pos_eq_commit {i : Instr} (hi : i.format = .pos) (s : State) : ∃ r, exec i s = s.commit r := by
  cases i with
  | len => exact ⟨.ok _, execLen_eq s⟩
  | parse | readPm25 | sendCommand | readResponse | parseInvoke => cases hi
  | _ => exact ⟨_, rfl⟩

/-- Settles O21: to commit is to answer a next state, with or without an error. -/
theorem microOperationsAlwaysComplete : Obligations.MicroOperationsAlwaysComplete := by
  intro i hi s
  obtain ⟨r, hr⟩ := exec_pos_eq_commit (format_eq_pos_of_mem i hi) s
  cases r with
  | ok t => exact ⟨t, hr⟩
  | error k => exact ⟨s.raise k, hr⟩

/-- A block row that answers a next state has raised or has accepted a byte. -/
theorem exec_block_next {i : Instr} {s t : State} (hi : readsBlock i = true) (h : exec i s = .next t) :
    (∃ k, t = s.raise k) ∨ ∃ b, t = s.afterBlock i b := by
  rw [exec_block_eq hi] at h
  obtain hok | ⟨k, -, rfl⟩ := State.commit_next h
  · cases hb : s.blockByte with
    | error k => rw [hb] at hok; cases hok
    | ok b =>
      rw [hb] at hok
      change (if i = .cmd ∧ b ≠ CMD_CODE then _ else _) = _ at hok
      split at hok <;> cases hok
      exact .inr ⟨b, rfl⟩
  · exact .inl ⟨k, rfl⟩

/-- `CHK` that answers a next state has raised or has completed the `PARSE`. -/
theorem execChk_next {s t : State} (h : execChk s = .next t) : (∃ k, t = s.raise k) ∨ t = s.complete := by
  obtain hlen | hlen := Nat.lt_or_ge s.len.toNat 18
  · cases (execChk_inRange (Nat.le_of_lt_succ hlen)).symm.trans h
    split
    · exact .inr rfl
    · exact .inl ⟨_, rfl⟩
  · cases (execChk_outOfRange hlen).symm.trans h
    exact .inl ⟨_, rfl⟩

/-- Everything a micro-operation can leave, by its row: the state it raises from, or the registers the row writes. -/
theorem exec_pos_next {i : Instr} {s t : State} (hi : i.format = .pos) (h : exec i s = .next t) :
    (∃ k, t = s.raise k) ∨ (i = .hdr ∧ t = s.setPc .len 0#5) ∨
      (i = .len ∧ t = { s with
        len := s.rb.byte 1, csum := csumAdd (s.rb.byte 0) (s.rb.byte 1), i := 0#5 }.advance) ∨
      (i = .chk ∧ t = s.complete) ∨ (readsBlock i = true ∧ ∃ b, t = s.afterBlock i b) := by
  cases i with
  | hdr =>
    cases (execHdr_eq s).symm.trans h
    split
    · exact .inr (.inl ⟨rfl, rfl⟩)
    · exact .inl ⟨_, rfl⟩
  | len =>
    cases (execLen_eq s).symm.trans h
    exact .inr (.inr (.inl ⟨rfl, rfl⟩))
  | chk =>
    obtain hraise | hok := execChk_next h
    · exact .inl hraise
    · exact .inr (.inr (.inr (.inl ⟨rfl, hok⟩)))
  | cmd | dfn1 | dfn2 | dfh | dfl | dfn5 | dfn6to7 | dfn8to15 | dfn16to31 =>
    obtain hraise | haccept := exec_block_next rfl h
    · exact .inl hraise
    · exact .inr (.inr (.inr (.inr ⟨rfl, haccept⟩)))
  | parse | readPm25 | sendCommand | readResponse | parseInvoke => cases hi

/-! ### What the twelve rows leave unchanged -/

/-- No micro-operation touches the transport, the host or the pending call. -/
theorem MicroResult.environment_eq {s t : State} (h : MicroResult s t) :
    t.transport = s.transport ∧ t.host = s.host ∧ t.call = s.call := by
  cases h with
  | raised k => exact ⟨rfl, rfl, rfl⟩
  | completed => exact ⟨s.complete_transport, s.complete_host, s.complete_call⟩
  | goesOn => exact ⟨rfl, rfl, rfl⟩

/-- A micro-operation that does not end the `PARSE` leaves the outcome and the driver's progress. -/
theorem MicroResult.progress_eq {s t : State} (h : MicroResult s t) (hph : t.ph ≠ .idle) :
    t.ov = s.ov ∧ t.outcome = s.outcome ∧ t.ts = s.ts ∧ t.reading = s.reading := by
  cases h with
  | raised k => exact absurd rfl hph
  | completed => exact absurd s.complete_ph hph
  | goesOn => exact ⟨rfl, rfl, rfl, rfl⟩

/-- Which row writes which codec register. -/
theorem exec_pos_codec_frame {i : Instr} {s t : State} (hi : i.format = .pos) (h : exec i s = .next t) :
    (i ≠ .len → t.len = s.len) ∧ (i ≠ .dfh → i ≠ .dfl → t.res = s.res) ∧
      (i = .hdr ∨ i = .chk → t.csum = s.csum) ∧ (i = .chk → t.i = s.i) := by
  obtain ⟨k, rfl⟩ | ⟨rfl, rfl⟩ | ⟨rfl, rfl⟩ | ⟨rfl, rfl⟩ | ⟨hblock, b, rfl⟩ := exec_pos_next hi h
  · exact ⟨fun _ => rfl, fun _ _ => rfl, fun _ => rfl, fun _ => rfl⟩
  · exact ⟨fun _ => rfl, fun _ _ => rfl, fun _ => rfl, nofun⟩
  · exact ⟨fun hne => absurd rfl hne, fun _ _ => rfl, nofun, nofun⟩
  · exact ⟨fun _ => s.complete_len, fun _ _ => s.complete_res, fun _ => s.complete_csum, fun _ => s.complete_i⟩
  · refine ⟨fun _ => rfl, fun hh hl => fieldAfter_of_ne hh hl s.res b, ?_, ?_⟩
    · rintro (rfl | rfl) <;> cases hblock
    · rintro rfl; cases hblock

/-- Settles O19: `RB`, the environment and the progress by what every micro-operation does, the codec registers by row. -/
theorem microOperationFrame : Obligations.MicroOperationFrame := by
  intro i hi s t h
  have hpos := format_eq_pos_of_mem i hi
  have hresult := exec_pos_result hpos h
  obtain ⟨htransport, hhost, hcall⟩ := hresult.environment_eq
  obtain ⟨hlen, hres, hcsum, hindex⟩ := exec_pos_codec_frame hpos h
  exact ⟨fun a => by rw [hresult.rb_eq], hresult.rb_eq, htransport, hhost, hcall, hlen, hres, hcsum, hindex,
    hresult.progress_eq⟩

end Sys2Proof.Machine
end

section
/-! PROOFS. The frame under the closed form of `PARSE` (40_frame_codec.md R79): when it is `Ok` (R88), which bytes its value depends
on (R81), and the value by length (R82, R83). -/

namespace Sys2Proof.Machine

/-- Settles O47: the checks of `parseClosed_eq_ok_iff`, their parameters written out. -/
theorem okExactlyWhenTheFrameSumsToZero : Obligations.OkExactlyWhenTheFrameSumsToZero := parseClosed_eq_ok_iff

theorem measured_of_parseClosed_eq_ok {m : Memory} {v : Measurement} (h : parseClosed m = .ok v) :
    v = m.measured (m.byte 1).toNat := by
  obtain ⟨-, -, -, -, hv⟩ := (parseClosed_eq_ok_iff m v).mp h
  exact hv

/-- Settles O46: the value depends on the length and on the bytes at 5 and 6 alone, on each only inside the block. -/
theorem unusedBytesDoNotMatter : Obligations.UnusedBytesDoNotMatter := by
  intro m m' v v' hagree hlen hv hv'
  rw [measured_of_parseClosed_eq_ok hv, measured_of_parseClosed_eq_ok hv', hlen]
  exact Memory.measured_congr (fun hn => hagree 5 (by decide) (by omega)) fun hn => hagree 6 (by decide) (by omega)

/-! ### The value by length -/

/-- A length of at most 3 gives no byte of the measurement (40_frame_codec.md R83). -/
theorem Memory.measured_of_le_three (m : Memory) {n : Nat} (h : n ≤ 3) : m.measured n = 0#16 := by
  have h4 : ¬ 4 ≤ n := by omega
  have h5 : ¬ 5 ≤ n := by omega
  rw [Memory.measured, if_neg h4, if_neg h5]
  rfl

/-- A length of 4 gives the high byte alone (40_frame_codec.md R83). -/
theorem Memory.measured_four (m : Memory) : m.measured 4 = m.byte 5 ++ 0#8 := by
  rw [← addLowHalf_highHalf]
  rfl

/-- Settles O49: the value is what the bytes inside the block contribute. -/
theorem okValueByLength : Obligations.OkValueByLength := by
  intro m v h
  rw [measured_of_parseClosed_eq_ok h]
  refine ⟨fun hn => m.measured_of_le_three hn, fun hn => ?_, fun hn => m.measured_of_five_le hn⟩
  rw [hn]
  exact m.measured_four

/-! ### The checks of a frame that fits -/

/-- Where the header, the echo and the length are right, the checksum decides (40_frame_codec.md R79). -/
theorem parseClosed_of_fits {m : Memory} (hhdr : m.byte 0 = HDR_RESP)
    (hecho : 1 ≤ (m.byte 1).toNat → m.byte 2 = CMD_CODE) (hlen : (m.byte 1).toNat ≤ N_MAX) :
    parseClosed m =
      if csumAdd (m.byte (2 + (m.byte 1).toNat)) (m.sumFirst (2 + (m.byte 1).toNat)) = 0#8 then
        .ok (m.measured (m.byte 1).toNat)
      else .error (.invalidChecksum (m.byte (2 + (m.byte 1).toNat)) (m.sumFirst (2 + (m.byte 1).toNat))) := by
  have hheader : ¬ m.byte 0 ≠ HDR_RESP := not_not_intro hhdr
  have hno : ¬ (1 ≤ (m.byte 1).toNat ∧ m.byte 2 ≠ CMD_CODE) := fun h => h.2 (hecho h.1)
  have hfits : ¬ N_MAX < (m.byte 1).toNat := Nat.not_lt_of_ge hlen
  simp only [parseClosed]
  rw [if_neg hheader, if_neg hno, if_neg hfits]
  exact ite_not ..

/-- Settles O48: the sum before the checksum byte is the header, and `0xEA` is the byte that cancels it. -/
theorem zeroLengthFrame : Obligations.ZeroLengthFrame := by
  intro m hhdr hlen
  have hn : (m.byte 1).toNat = 0 := by rw [hlen]; rfl
  have hsum : m.sumFirst 2 = 0x16#8 := by
    simp only [Memory.sumFirst, hhdr, hlen]
    rfl
  have hcancel : csumAdd (m.byte 2) 0x16#8 = 0#8 ↔ m.byte 2 = 0xEA#8 :=
    beq_iff_eq.symm.trans (checksumByteIsTheOneThatCancels 0x16#8 (m.byte 2))
  have hclosed := parseClosed_of_fits hhdr (fun h => by omega) (by omega : (m.byte 1).toNat ≤ N_MAX)
  rw [hn, Nat.add_zero, hsum, m.measured_of_le_three (Nat.zero_le 3)] at hclosed
  rw [hclosed]
  exact ⟨fun h => if_pos (hcancel.mpr h), fun h => if_neg (mt hcancel.mp h)⟩

end Sys2Proof.Machine
end

section
/-! PROOFS. The starts of an operation (40_frame_codec.md R70, 41_transaction.md R102, R103), what they and `SEND_COMMAND` leave
unchanged, and the operation a step selects (30_encoding.md R58, 40_frame_codec.md R78). -/

namespace Sys2Proof.Machine

/-! ### The starts -/

/-- A block that is not quiet has a `PARSE`, a `TS` or a `READ_PM25` in progress (log 13). -/
theorem State.not_quiet {s : State} (h : s.ph ≠ .idle ∨ s.ts ≠ .idle ∨ s.reading = true) : ¬ s.quiet = true := by
  rw [State.quiet_iff]
  rintro ⟨hph, hts, hread⟩
  obtain hne | hne | hreading := h
  · exact hne hph
  · exact hne hts
  · cases hread.symm.trans hreading

/-- Settles O22: `PARSE` asks for a quiet block, `PARSE_INVOKE` for an idle codec. -/
theorem parseStarts : Obligations.ParseStarts := fun _ =>
  ⟨fun hph hts hread => if_pos (State.quiet_iff.mpr ⟨hph, hts, hread⟩), fun hph => if_pos hph,
    fun hbusy => if_neg (State.not_quiet hbusy), fun hph => if_neg hph⟩

/-! ### What the starts and `SEND_COMMAND` leave unchanged -/

/-- `SEND_COMMAND` writes no codec register and takes no read answer (41_transaction.md R100). -/
theorem execSendCommand_frame {s t : State} (h : execSendCommand s = .next t) :
    t.len = s.len ∧ t.csum = s.csum ∧ t.host = s.host ∧ (t.res = s.res ∧ t.i = s.i) ∧
      t.transport.readAnswers = s.transport.readAnswers := by
  obtain rfl | ⟨_, rfl⟩ | ⟨_, _, _, rfl⟩ := execSendCommand_next h <;> simp

/-- Settles O29: `RB` by O9's frame, the registers by what each operation writes. -/
theorem startAndSendFrame : Obligations.StartAndSendFrame := by
  intro i hi s t h
  have hne : ∀ j ∈ [Instr.parse, .readPm25, .parseInvoke, .sendCommand], j ≠ .readResponse := by decide
  have hrb : ∀ a, t.rb.read? a = s.rb.read? a := fun a => by rw [onlyReadResponseWritesRb i s t (hne i hi) h]
  refine ⟨hrb, ?_⟩
  simp only [List.mem_cons, List.not_mem_nil, or_false] at hi
  obtain rfl | rfl | rfl | rfl := hi
  · obtain ⟨-, ⟨-, rfl⟩ | ⟨hop, -⟩⟩ := execHost_next (op := .parse) h
    · simp
    · cases hop
  · obtain ⟨-, ⟨hop, -⟩ | ⟨-, rfl⟩⟩ := execHost_next (op := .readPm25) h
    · cases hop
    · simp
  · obtain ⟨-, rfl⟩ := execParseInvoke_next h
    simp
  · obtain ⟨hlen, hcsum, hhost, hfield, hreads⟩ := execSendCommand_frame h
    exact ⟨hlen, hcsum, hhost, fun _ => hfield, nofun, fun hsend => absurd rfl hsend, nofun, hreads⟩

/-! ### The operation a step selects -/

theorem step_of_fetch {s t : State} {i : Instr} (h : s.fetch = some (i, t)) : step s = exec i t := by
  unfold step; rw [h]

/-- A step with a `PARSE` in progress runs the micro-operation of its position. -/
theorem step_codec {s : State} {i : Instr} (h : s.hostStart = none) (hi : s.ph.instr s.i = some i) :
    step s = exec i s := by
  have hph : s.ph ≠ .idle := by
    intro hidle
    rw [hidle] at hi
    cases hi
  exact step_of_fetch (by rw [State.fetch_codec h hph, hi]; rfl)

/-- What the position word decodes to is what the position selects. -/
theorem instr_of_decode_pw {s : State} {i : Instr} (hph : s.ph ≠ .idle) (h : decode .pos s.pw.toNat = .ok i) :
    s.ph.instr s.i = some i := by
  have hinstr := Option.some.inj (decode_pos s.ph hph s.i)
  rw [← hinstr]
  exact congrArg Decoded.toOption h

/-- Settles O31: the four branches of the selection, each word decoding to the operation selected. -/
theorem stepRunsTheSelectedOperation : Obligations.StepRunsTheSelectedOperation := by
  refine fun s => ⟨fun op i hstart hi => ⟨rfl, ?_⟩, fun i hstart hph hi => ⟨rfl, ?_⟩,
    fun i hstart hph hread hi => ⟨rfl, ?_⟩, fun hstart hph hread => step_idle hstart hph hread⟩
  · cases (decode_host op).symm.trans hi
    exact step_of_fetch (State.fetch_start hstart)
  · exact step_codec hstart (instr_of_decode_pw hph hi)
  · cases (decode_drv s.ts).symm.trans hi
    exact step_of_fetch (State.fetch_driver hstart hph hread)

end Sys2Proof.Machine
end

section
/-! PROOFS. The codec registers in each phase of a `PARSE` (40_frame_codec.md R72 to R78): every sound state of the block is the one
`State.atBlock` writes out, and each micro-operation takes it to the next. -/

namespace Sys2Proof.Machine

/-! ### The state after `k` block bytes -/

/-- `s` with the codec registers as `LEN` and `k` block bytes of `RB` leave them (40_frame_codec.md R72 to R76, R86). -/
def State.atBlock (s : State) (k : Nat) : State :=
  { s with
    len := s.rb.byte 1
    csum := s.rb.sumFirst (2 + k)
    res := s.rb.measured k
    i := BitVec.ofNat 5 k
    ph := if k = (s.rb.byte 1).toNat then .chk else .data }

theorem State.atBlock_i_toNat (s : State) {k : Nat} (h : k ≤ 18) : (s.atBlock k).i.toNat = k :=
  Nat.mod_eq_of_lt (by omega)

/-- The value grows with each block byte as the byte's row writes `RES` (40_frame_codec.md R74, R75, R76). -/
theorem Memory.measured_succ (m : Memory) {k : Nat} (h : k ≤ 17) :
    m.measured (k + 1) = fieldAfter (blockInstr (BitVec.ofNat 5 k)) (m.measured k) (m.byte (2 + k)) := by
  have hrow : ∀ i : BitVec 5, (blockInstr i = .dfh ↔ i.toNat = 3) ∧ (blockInstr i = .dfl ↔ i.toNat = 4) := by decide
  have hk : (BitVec.ofNat 5 k).toNat = k := Nat.mod_eq_of_lt (by omega)
  obtain ⟨hdfh, hdfl⟩ := hrow (BitVec.ofNat 5 k)
  rw [hk] at hdfh hdfl
  obtain hlt | rfl | rfl | hgt : k < 3 ∨ k = 3 ∨ k = 4 ∨ 4 < k := by omega
  · rw [fieldAfter_of_ne (mt hdfh.mp (by omega)) (mt hdfl.mp (by omega)), m.measured_of_le_three hlt,
      m.measured_of_le_three (Nat.le_of_lt hlt)]
  · rw [m.measured_four, ← highHalf_eq_append]
    rfl
  · rw [m.measured_of_five_le (Nat.le_refl 5), m.measured_four, ← highHalf_eq_append, ← addLowHalf_highHalf]
    rfl
  · rw [fieldAfter_of_ne (mt hdfh.mp (by omega)) (mt hdfl.mp (by omega)), m.measured_of_five_le (by omega),
      m.measured_of_five_le hgt]

/-- `LEN` leaves the state before the first block byte, `RES` being 0 since the start (40_frame_codec.md R70, R72). -/
theorem execLen_atBlock {s : State} (h : s.res = 0#16) : execLen s = .next (s.atBlock 0) := by
  have htest : (0#5).setWidth 8 = s.rb.byte 1 ↔ 0 = (s.rb.byte 1).toNat := zext_eq_iff
  have hsum : s.rb.sumFirst (2 + 0) = csumAdd (s.rb.byte 0) (s.rb.byte 1) :=
    congrArg (csumAdd · (s.rb.byte 1)) (BitVec.zero_add _)
  have hfield : s.res = s.rb.measured 0 := by rw [h, s.rb.measured_of_le_three (Nat.zero_le 3)]
  rw [execLen_eq, State.atBlock, hsum, ← hfield]
  simp only [State.advance, htest]

/-- A block byte takes the registers from `k` bytes to `k + 1`. -/
theorem State.afterBlock_atBlock (s : State) {k : Nat} (h : k ≤ 17) :
    (s.atBlock k).afterBlock (blockInstr (s.atBlock k).i) (s.rb.byte (2 + k)) = s.atBlock (k + 1) := by
  have hindex : BitVec.ofNat 5 k + 1#5 = BitVec.ofNat 5 (k + 1) := (BitVec.ofNat_add k 1).symm
  have htest : (BitVec.ofNat 5 (k + 1)).setWidth 8 = s.rb.byte 1 ↔ k + 1 = (s.rb.byte 1).toNat := by
    rw [zext_eq_iff, BitVec.toNat_ofNat, Nat.mod_eq_of_lt (by omega)]
  rw [State.atBlock.eq_1 s (k + 1), s.rb.measured_succ h]
  simp only [State.afterBlock, State.accumulate, State.advance, State.atBlock, hindex, htest]
  rfl

theorem blockInstr_readsBlock (i : BitVec 5) : readsBlock (blockInstr i) = true := by
  revert i; decide

/-- Only the first block byte is compared (30_encoding.md R57). -/
theorem toNat_eq_zero_of_blockInstr_eq_cmd {i : BitVec 5} (h : blockInstr i = .cmd) : i.toNat = 0 := by
  revert i; decide

/-- The micro-operation after `k` block bytes accepts the next one, if the echo is right. -/
theorem exec_atBlock_accepts {s : State} {k : Nat} (h : k ≤ 17) (hecho : s.rb.byte 2 = CMD_CODE) :
    exec (blockInstr (s.atBlock k).i) (s.atBlock k) = .next (s.atBlock (k + 1)) := by
  have hk : (s.atBlock k).i.toNat = k := s.atBlock_i_toNat (by omega)
  have hcmd : blockInstr (s.atBlock k).i = .cmd → s.rb.byte (2 + (s.atBlock k).i.toNat) = CMD_CODE := fun hrow => by
    rw [toNat_eq_zero_of_blockInstr_eq_cmd hrow]
    exact hecho
  rw [exec_block_accepts (blockInstr_readsBlock _) (by omega) hcmd, hk]
  exact congrArg _ (s.afterBlock_atBlock h)

/-- The first one raises if the echo is wrong. -/
theorem exec_atBlock_mismatch {s : State} (hecho : s.rb.byte 2 ≠ CMD_CODE) :
    exec (blockInstr (s.atBlock 0).i) (s.atBlock 0) =
      .next ((s.atBlock 0).raise (.invalidCommandResponse (s.rb.byte 2))) :=
  exec_cmd_mismatch (s := s.atBlock 0) (Nat.zero_le 17) hecho

/-- After 18 block bytes there is no cell left to read (40_frame_codec.md R85). -/
theorem exec_atBlock_beyond (s : State) :
    exec (blockInstr (s.atBlock 18).i) (s.atBlock 18) =
      .next ((s.atBlock 18).raise (.malformedLength (s.rb.byte 1))) :=
  exec_block_outOfRange (s := s.atBlock 18) rfl (Nat.le_refl 18)

/-! ### Sound codec registers -/

theorem CodecSound.of_idle {s : State} (h : s.ph = .idle) : CodecSound s := by
  rw [CodecSound, h]; trivial

/-- A raise leaves no `PARSE` in progress. -/
theorem State.raise_codecSound (s : State) (k : ErrorKind) : CodecSound (s.raise k) := .of_idle (s.raise_ph k)

theorem State.beginParse_codecSound (s : State) : CodecSound s.beginParse := ⟨rfl, rfl⟩

/-- The state after `k` block bytes is sound if the checks before it have passed. -/
theorem State.atBlock_codecSound {s : State} {k : Nat} (hhdr : s.rb.byte 0 = HDR_RESP)
    (hecho : 1 ≤ k → s.rb.byte 2 = CMD_CODE) (hk : k ≤ 18) (hlen : k ≤ (s.rb.byte 1).toNat) :
    CodecSound (s.atBlock k) := by
  have hindex : (s.atBlock k).i.toNat = k := s.atBlock_i_toNat hk
  have hsummed : BlockSummed (s.atBlock k) :=
    { header := hhdr
      latched := rfl
      bounded := by omega
      echo := by rwa [hindex]
      summed := by rw [hindex]; rfl
      assembled := by rw [hindex]; rfl }
  by_cases hend : k = (s.rb.byte 1).toNat
  · have hph : (s.atBlock k).ph = .chk := if_pos hend
    rw [CodecSound, hph]
    exact ⟨hindex.trans hend, hsummed⟩
  · have hph : (s.atBlock k).ph = .data := if_neg hend
    rw [CodecSound, hph]
    exact ⟨by rw [hindex]; exact Nat.lt_of_le_of_ne hlen hend, hsummed⟩

/-- The invariant leaves no choice in the registers: they are those after `I` block bytes. -/
theorem BlockSummed.atBlock_eq {s : State} (h : BlockSummed s)
    (hph : s.ph = if s.i.toNat = s.len.toNat then .chk else .data) : s.atBlock s.i.toNat = s := by
  rw [State.atBlock, ← h.summed, ← h.assembled, ← h.latched, ← hph, BitVec.ofNat_toNat, BitVec.setWidth_eq]

/-- A `DATA` step after `k` block bytes raises, or leaves `k + 1` of them, which the loop test finds at most `LEN`. -/
theorem codecSound_of_atBlock_step {s t : State} {k : Nat} (hhdr : s.rb.byte 0 = HDR_RESP)
    (hecho : 1 ≤ k → s.rb.byte 2 = CMD_CODE) (hk : k ≤ 18) (hlt : k < (s.rb.byte 1).toNat)
    (h : exec (blockInstr (s.atBlock k).i) (s.atBlock k) = .next t) : CodecSound t := by
  obtain hcell | rfl : k ≤ 17 ∨ k = 18 := by omega
  · by_cases hcmd : s.rb.byte 2 = CMD_CODE
    · cases (exec_atBlock_accepts hcell hcmd).symm.trans h
      exact State.atBlock_codecSound hhdr (fun _ => hcmd) (by omega) hlt
    · obtain rfl : k = 0 := Nat.eq_zero_of_not_pos fun hpos => hcmd (hecho hpos)
      cases (exec_atBlock_mismatch hcmd).symm.trans h
      exact State.raise_codecSound _ _
  · cases (exec_atBlock_beyond s).symm.trans h
    exact State.raise_codecSound _ _

/-- Each micro-operation, run at its own position, keeps the codec sound. -/
theorem codecSound_of_micro {s t : State} {i : Instr} (hs : CodecSound s) (hi : s.ph.instr s.i = some i)
    (h : exec i s = .next t) : CodecSound t := by
  unfold CodecSound at hs
  generalize hph : s.ph = p at hi hs
  cases p <;> cases hi
  case hdr =>
    cases (execHdr_eq s).symm.trans h
    split
    case isTrue hmatch => exact ⟨rfl, hs.2, hmatch⟩
    case isFalse => exact s.raise_codecSound _
  case len =>
    obtain ⟨-, hres, hhdr⟩ := hs
    cases (execLen_atBlock hres).symm.trans h
    exact State.atBlock_codecSound hhdr nofun (by omega) (Nat.zero_le _)
  case data =>
    obtain ⟨hlt, hsummed⟩ := hs
    have heq : s.atBlock s.i.toNat = s := hsummed.atBlock_eq (by rw [hph, if_neg (Nat.ne_of_lt hlt)])
    rw [hsummed.latched] at hlt
    exact codecSound_of_atBlock_step hsummed.header hsummed.echo hsummed.bounded hlt (by rwa [heq])
  case chk =>
    obtain ⟨k, rfl⟩ | rfl := execChk_next h
    · exact s.raise_codecSound k
    · exact .of_idle s.complete_ph

/-- A start of the host begins a `PARSE`, or leaves the codec idle. -/
theorem execHost_codecSound {op : HostOp} {s t : State} (h : exec op.instr s = .next t) : CodecSound t := by
  obtain ⟨hquiet, ⟨-, rfl⟩ | ⟨-, rfl⟩⟩ := execHost_next h
  · exact s.clearOv.beginParse_codecSound
  · exact .of_idle (State.quiet_iff.mp hquiet).1

/-- A driver sub-operation begins a `PARSE`, or leaves the codec idle. -/
theorem execDriver_codecSound {ts : TState} {s t : State} (hph : s.ph = .idle) (h : exec ts.instr s = .next t) :
    CodecSound t := by
  cases ts with
  | idle =>
    obtain rfl | ⟨_, rfl⟩ | ⟨_, _, _, rfl⟩ := execSendCommand_next h
    · exact .of_idle ((s.issue_ph _).trans hph)
    · exact .of_idle ((s.issue_ph _).trans hph)
    · exact State.raise_codecSound _ _
  | awaitingResponse =>
    obtain rfl | ⟨_, _, rfl⟩ | ⟨_, _, _, rfl⟩ := execReadResponse_next h
    · exact .of_idle ((s.issue_ph _).trans hph)
    · exact .of_idle ((s.issue_ph _).trans hph)
    · exact State.raise_codecSound _ _
  | parsing =>
    obtain ⟨-, rfl⟩ := execParseInvoke_next h
    exact s.beginParse_codecSound

/-- Settles O37: in a `PARSE` by the position's micro-operation; every other step begins one or leaves the codec idle. -/
theorem stepKeepsCodecSound : Obligations.StepKeepsCodecSound := by
  intro s t hs h
  obtain ⟨-, -, -, hidle⟩ | ⟨op, -, hstart⟩ | ⟨i, -, -, hi, hcodec⟩ | ⟨-, hph, -, hdriver⟩ := step_cases h
  · cases hidle; exact hs
  · exact execHost_codecSound hstart.symm
  · exact codecSound_of_micro hs hi hcodec.symm
  · exact execDriver_codecSound hph hdriver.symm

/-- Settles O18: `RES` is what the bytes before `I` contribute, before `DFL` and after it. -/
theorem fieldsAssembleInPlace : Obligations.FieldsAssembleInPlace := by
  intro s hs hph
  simp only [CodecSound, hph] at hs
  obtain ⟨-, hsummed⟩ := hs
  have hres := hsummed.assembled
  refine ⟨fun hi => ?_, fun hi => ?_⟩
  · rw [hres, hi]
    exact s.rb.measured_of_le_three (Nat.le_refl 3)
  · have hindex : s.i.toNat = 4 := by rw [hi]; rfl
    rw [hindex, s.rb.measured_four] at hres
    refine ⟨hres, _, exec_block_accepts (i := .dfl) rfl (by omega) nofun, ?_⟩
    change addLowHalf s.res (s.rb.byte (2 + s.i.toNat)) = _
    rw [hres, hindex, ← highHalf_eq_append]
    exact addLowHalf_highHalf _ _

end Sys2Proof.Machine
end

section
/-! PROOFS. A `PARSE` run step by step (40_frame_codec.md R78): the state after each micro-operation, and the end, which has the
outcome of the closed form (R79). -/

namespace Sys2Proof.Machine

/-! ### The four ways a `PARSE` ends -/

/-- The checks in their order, each with the number of micro-operations it takes to reach it and the outcome where it fails
(40_frame_codec.md R79; 95_test_vectors.md section 2.2). -/
theorem parseSteps_parseClosed_cases (m : Memory) :
    (m.byte 0 ≠ HDR_RESP ∧ parseSteps m = 1 ∧ parseClosed m = .error (.invalidHeader (m.byte 0))) ∨
    (m.byte 0 = HDR_RESP ∧ 1 ≤ (m.byte 1).toNat ∧ m.byte 2 ≠ CMD_CODE ∧ parseSteps m = 3 ∧
      parseClosed m = .error (.invalidCommandResponse (m.byte 2))) ∨
    (m.byte 0 = HDR_RESP ∧ m.byte 2 = CMD_CODE ∧ 18 ≤ (m.byte 1).toNat ∧ parseSteps m = 21 ∧
      parseClosed m = .error (.malformedLength (m.byte 1))) ∨
    (m.byte 0 = HDR_RESP ∧ (1 ≤ (m.byte 1).toNat → m.byte 2 = CMD_CODE) ∧ (m.byte 1).toNat ≤ 17 ∧
      parseSteps m = (m.byte 1).toNat + 3) := by
  obtain ⟨hbadHeader, hbadEcho, htooLong⟩ := firstFailingCheckDecides m
  by_cases hhdr : m.byte 0 = HDR_RESP
  · have hheader : ¬ m.byte 0 ≠ HDR_RESP := not_not_intro hhdr
    by_cases hecho : 1 ≤ (m.byte 1).toNat ∧ m.byte 2 ≠ CMD_CODE
    · have hsteps : parseSteps m = 3 := (if_neg hheader).trans (if_pos hecho)
      exact .inr (.inl ⟨hhdr, hecho.1, hecho.2, hsteps, hbadEcho hhdr hecho.1 hecho.2⟩)
    · have hcmd : 1 ≤ (m.byte 1).toNat → m.byte 2 = CMD_CODE := by simpa using hecho
      by_cases hlong : N_MAX < (m.byte 1).toNat
      · have hsteps : parseSteps m = 21 := (if_neg hheader).trans ((if_neg hecho).trans (if_pos hlong))
        have hmatch := hcmd (Nat.one_le_of_lt hlong)
        exact .inr (.inr (.inl ⟨hhdr, hmatch, hlong, hsteps, htooLong hhdr hmatch hlong⟩))
      · have hsteps : parseSteps m = (m.byte 1).toNat + 3 := (if_neg hheader).trans ((if_neg hecho).trans (if_neg hlong))
        exact .inr (.inr (.inr ⟨hhdr, hcmd, Nat.le_of_not_lt hlong, hsteps⟩))
  · exact .inl ⟨hhdr, if_pos hhdr, hbadHeader hhdr⟩

/-- No `PARSE` takes more than 21 micro-operations. -/
theorem parseSteps_le (m : Memory) : parseSteps m ≤ 21 := by
  obtain ⟨-, h, -⟩ | ⟨-, -, -, h, -⟩ | ⟨-, -, -, h, -⟩ | ⟨-, -, hlen, h⟩ := parseSteps_parseClosed_cases m <;> omega

/-- An `Ok` one takes `LEN + 3` (40_frame_codec.md R78). -/
theorem parseSteps_of_parseClosed_eq_ok {m : Memory} {v : Measurement} (hv : parseClosed m = .ok v) :
    parseSteps m = (m.byte 1).toNat + 3 := by
  obtain ⟨-, -, h⟩ | ⟨-, -, -, -, h⟩ | ⟨-, -, -, -, h⟩ | ⟨-, -, -, hsteps⟩ := parseSteps_parseClosed_cases m
  · cases h.symm.trans hv
  · cases h.symm.trans hv
  · cases h.symm.trans hv
  · exact hsteps

/-- A `PARSE` that goes on after `HDR` has the right header. -/
theorem header_of_one_lt_parseSteps {m : Memory} (h : 1 < parseSteps m) : m.byte 0 = HDR_RESP := by
  refine Decidable.byContradiction fun hhdr => ?_
  have hsteps : parseSteps m = 1 := if_pos hhdr
  omega

/-- A `PARSE` that goes on after the micro-operation of the block byte `k` has that byte, in `RB` and in the block, and the right
echo. -/
theorem block_of_lt_parseSteps {m : Memory} {k : Nat} (h : k + 3 < parseSteps m) :
    k ≤ 17 ∧ k < (m.byte 1).toNat ∧ m.byte 2 = CMD_CODE := by
  obtain ⟨-, hsteps, -⟩ | ⟨-, -, -, hsteps, -⟩ | ⟨-, hcmd, hlong, hsteps, -⟩ | ⟨-, hcmd, hfits, hsteps⟩ :=
    parseSteps_parseClosed_cases m
  · omega
  · omega
  · exact ⟨by omega, by omega, hcmd⟩
  · exact ⟨by omega, by omega, hcmd (by omega)⟩

/-! ### The states of the run -/

/-- A `PARSE` begun in `p`, after `n` micro-operations all of which have gone on. -/
def State.afterMicro (p : State) : Nat → State
  | 0 => p
  | 1 => p.setPc .len 0#5
  | k + 2 => p.atBlock k

/-- The end of a `PARSE` with the outcome `o`: `complete` or a raise. -/
def State.finish (s : State) : OpOutcome → State
  | .ok _ => s.complete
  | .error k => s.raise k

/-- The micro-operations before the end leave `RB`, `TS` and `OV`. -/
theorem State.afterMicro_frame (p : State) (n : Nat) :
    (p.afterMicro n).rb = p.rb ∧ (p.afterMicro n).ts = p.ts ∧ (p.afterMicro n).ov = p.ov := by
  match n with
  | 0 | 1 | _ + 2 => exact ⟨rfl, rfl, rfl⟩

/-- However a `PARSE` ends, `OV` is set, the codec is idle, and `RB` and `RES` are as they were. -/
theorem State.finish_end (s : State) (o : OpOutcome) :
    (s.finish o).ov = true ∧ (s.finish o).ph = .idle ∧ (s.finish o).rb = s.rb ∧ (s.finish o).res = s.res := by
  cases o with
  | ok v => exact ⟨s.complete_ov, s.complete_ph, s.complete_rb, s.complete_res⟩
  | error k => exact ⟨rfl, rfl, rfl, rfl⟩

theorem State.finish_ts {s : State} (o : OpOutcome) (h : s.ts = .idle) : (s.finish o).ts = .idle := by
  cases o with
  | ok v => exact (s.complete_ts).trans (by rw [h, ite_self])
  | error k => rfl

/-- The outcome is the one given, if `RES` holds the measurement of an `Ok` one. -/
theorem State.finish_outcome {s : State} {o : OpOutcome} (h : ∀ v, o = .ok v → s.res = v) : (s.finish o).outcome = o := by
  cases o with
  | ok v => rw [State.finish, s.complete_outcome, h v rfl]
  | error k => rfl

/-! ### Its steps -/

/-- A host that serialises its calls lets a `PARSE` in progress run: a step is the micro-operation of the position. -/
theorem State.serialised.step_codec {s : State} {i : Instr} (hs : s.serialised) (hi : s.ph.instr s.i = some i) :
    step s = exec i s := by
  have hbusy : s.quiet = false := by
    cases hph : s.ph <;> simp [State.quiet, hph, Phase.instr] at hi ⊢
  exact Machine.step_codec (State.hostStart_of_waiting hs hbusy) hi

section Run

variable {p : State} (hs : p.serialised)
include hs

theorem step_hdr (hph : p.ph = .hdr) :
    step p = .next (if p.rb.byte 0 = HDR_RESP then p.setPc .len 0#5 else p.raise (.invalidHeader (p.rb.byte 0))) :=
  (hs.step_codec (i := .hdr) (by rw [hph]; rfl)).trans (execHdr_eq p)

theorem step_len (hres : p.res = 0#16) : step (p.setPc .len 0#5) = .next (p.atBlock 0) :=
  (State.serialised.step_codec (s := p.setPc .len 0#5) (i := .len) hs rfl).trans
    (execLen_atBlock (s := p.setPc .len 0#5) hres)

theorem step_data {k : Nat} (h : k ≠ (p.rb.byte 1).toNat) :
    step (p.atBlock k) = exec (blockInstr (p.atBlock k).i) (p.atBlock k) := by
  have hph : (p.atBlock k).ph = .data := if_neg h
  exact State.serialised.step_codec (s := p.atBlock k) hs (by rw [hph]; rfl)

/-- After `LEN` block bytes `CHK` ends the `PARSE` as the closed form says (40_frame_codec.md R77, R79). -/
theorem step_chk (hhdr : p.rb.byte 0 = HDR_RESP) (hecho : 1 ≤ (p.rb.byte 1).toNat → p.rb.byte 2 = CMD_CODE)
    (hlen : (p.rb.byte 1).toNat ≤ 17) :
    step (p.atBlock (p.rb.byte 1).toNat) = .next ((p.atBlock (p.rb.byte 1).toNat).finish (parseClosed p.rb)) := by
  have hph : (p.atBlock (p.rb.byte 1).toNat).ph = .chk := if_pos rfl
  rw [State.serialised.step_codec (s := p.atBlock _) (i := .chk) hs (by rw [hph]; rfl), parseClosed_of_fits hhdr hecho hlen]
  refine (execChk_inRange (s := p.atBlock _) hlen).trans (congrArg _ ?_)
  change (if csumAdd (p.rb.byte (2 + (p.rb.byte 1).toNat)) (p.rb.sumFirst (2 + (p.rb.byte 1).toNat)) = 0#8 then _
    else _) = _
  split <;> rfl

/-- After 18 block bytes of a longer frame, or of one of just that length, no cell is left to read (40_frame_codec.md R85). -/
theorem step_beyond (hlong : 18 ≤ (p.rb.byte 1).toNat) :
    step (p.atBlock 18) = .next ((p.atBlock 18).raise (.malformedLength (p.rb.byte 1))) := by
  by_cases hend : 18 = (p.rb.byte 1).toNat
  · have hph : (p.atBlock 18).ph = .chk := if_pos hend
    exact (State.serialised.step_codec (s := p.atBlock 18) (i := .chk) hs (by rw [hph]; rfl)).trans
      (execChk_outOfRange (s := p.atBlock 18) hlong)
  · exact (step_data hs hend).trans (exec_atBlock_beyond p)

/-- A micro-operation that is not the last goes on. -/
theorem step_afterMicro (hph : p.ph = .hdr) (hres : p.res = 0#16) {n : Nat} (h : n + 1 < parseSteps p.rb) :
    step (p.afterMicro n) = .next (p.afterMicro (n + 1)) := by
  match n with
  | 0 => exact (step_hdr hs hph).trans (congrArg _ (if_pos (header_of_one_lt_parseSteps h)))
  | 1 => exact step_len hs hres
  | k + 2 =>
    obtain ⟨hcell, hlt, hecho⟩ := block_of_lt_parseSteps h
    exact (step_data hs (Nat.ne_of_lt hlt)).trans (exec_atBlock_accepts hcell hecho)

/-- The last one ends the `PARSE` with the outcome of the closed form. -/
theorem step_afterMicro_last (hph : p.ph = .hdr) :
    step (p.afterMicro (parseSteps p.rb - 1)) =
      .next ((p.afterMicro (parseSteps p.rb - 1)).finish (parseClosed p.rb)) := by
  obtain ⟨hhdr, hsteps, ho⟩ | ⟨-, hlen, hecho, hsteps, ho⟩ | ⟨-, -, hlong, hsteps, ho⟩ | ⟨hhdr, hecho, hlen, hsteps⟩ :=
    parseSteps_parseClosed_cases p.rb
  · rw [hsteps, ho]
    exact (step_hdr hs hph).trans (congrArg _ (if_neg hhdr))
  · rw [hsteps, ho]
    exact (step_data hs (k := 0) (by omega)).trans (exec_atBlock_mismatch hecho)
  · rw [hsteps, ho]
    exact step_beyond hs hlong
  · rw [hsteps]
    exact step_chk hs hhdr hecho hlen

/-- A run that has not reached the last micro-operation is in the state of its position. -/
theorem runSteps_afterMicro (hph : p.ph = .hdr) (hres : p.res = 0#16) {n : Nat} (h : n < parseSteps p.rb) :
    runSteps n p = .next (p.afterMicro n) := by
  induction n with
  | zero => rfl
  | succ n ih =>
    rw [runSteps_add n 1 (ih (by omega)), runSteps_next 0 (step_afterMicro hs hph hres h), runSteps_zero]

/-- A whole `PARSE`, inside a `READ_PM25` or not. -/
theorem runSteps_parse (hph : p.ph = .hdr) (hres : p.res = 0#16) :
    runSteps (parseSteps p.rb) p = .next ((p.afterMicro (parseSteps p.rb - 1)).finish (parseClosed p.rb)) := by
  have hpos : 0 < parseSteps p.rb := by
    obtain ⟨-, h, -⟩ | ⟨-, -, -, h, -⟩ | ⟨-, -, -, h, -⟩ | ⟨-, -, -, h⟩ := parseSteps_parseClosed_cases p.rb <;> omega
  obtain ⟨n, hn⟩ := Nat.exists_eq_succ_of_ne_zero (Nat.ne_of_gt hpos)
  have hlast := step_afterMicro_last hs hph
  rw [hn] at hlast ⊢
  rw [runSteps_add n 1 (runSteps_afterMicro hs hph hres (by omega))]
  exact runSteps_next 0 hlast

end Run

/-- An `Ok` `PARSE` has assembled its value in `RES` when it ends. -/
theorem State.afterMicro_last_res {p : State} {v : Measurement} (hv : parseClosed p.rb = .ok v) :
    (p.afterMicro (parseSteps p.rb - 1)).res = v := by
  rw [parseSteps_of_parseClosed_eq_ok hv, measured_of_parseClosed_eq_ok hv]
  rfl

/-- The end of a `PARSE`: `OV`, the idle sequencer, the outcome of the closed form, and its value in `RES`. -/
theorem parse_end {p : State} (hts : p.ts = .idle) :
    let t := (p.afterMicro (parseSteps p.rb - 1)).finish (parseClosed p.rb)
    t.ov = true ∧ t.ph = .idle ∧ t.ts = .idle ∧ t.outcome = parseClosed p.rb ∧ t.rb = p.rb ∧
      ∀ v, parseClosed p.rb = .ok v → t.res = v := by
  intro t
  obtain ⟨hrb, hts', -⟩ := p.afterMicro_frame (parseSteps p.rb - 1)
  obtain ⟨hov, hph, hrb', hres⟩ := (p.afterMicro (parseSteps p.rb - 1)).finish_end (parseClosed p.rb)
  exact ⟨hov, hph, State.finish_ts _ (hts'.trans hts), State.finish_outcome fun _ => State.afterMicro_last_res,
    hrb'.trans hrb, fun _ hv => hres.trans (State.afterMicro_last_res hv)⟩

/-- Settles O41: every state before the end keeps the `OV` that the start cleared, and the end is the closed form's. -/
theorem parseRunGivesTheClosedForm : Obligations.ParseRunGivesTheClosedForm := by
  intro s p hs hstart
  obtain ⟨hquiet, ⟨-, rfl⟩ | ⟨hop, -⟩⟩ := execHost_next (op := .parse) hstart
  · have hserial : s.clearOv.beginParse.serialised := hs
    have hidle : s.ts = .idle := (State.quiet_iff.mp hquiet).2.1
    obtain ⟨hov, hph, hts, hout, hrb, hres⟩ := parse_end (p := s.clearOv.beginParse) hidle
    refine ⟨_, runSteps_parse hserial rfl rfl, hov, hph, hts, hout, hrb, parseSteps_le s.rb, fun n u hn hu => ?_,
      fun v hv => ⟨hres v hv, parseSteps_of_parseClosed_eq_ok hv⟩⟩
    cases (runSteps_afterMicro hserial rfl rfl hn).symm.trans hu
    obtain ⟨-, -, hstill⟩ := s.clearOv.beginParse.afterMicro_frame n
    exact hstill
  · cases hop

end Sys2Proof.Machine
end

section
/-! PROOFS. The start and the sub-operations of a `READ_PM25` (41_transaction.md R100, R101, R103): what each leaves for each answer
of the transport, the wait for an answer that does not come (R107), and that no step of a serialised host is refused (R108). -/

namespace Sys2Proof.Machine

/-- Settles O23: `READ_PM25` asks for a quiet block. -/
theorem readPm25Starts : Obligations.ReadPm25Starts := fun _ =>
  ⟨fun hph hts hread => if_pos (State.quiet_iff.mpr ⟨hph, hts, hread⟩), fun hbusy => if_neg (State.not_quiet hbusy)⟩

/-! ### A call and its answer -/

/-- The log of calls once `c` is issued: a call the block is already blocked in is not logged again (log 4). -/
def State.callsWith (s : State) (c : TCall) : List TCall :=
  if s.call = some c then s.transport.calls else s.transport.calls ++ [c]

theorem State.callsWith_of_call_eq_none {s : State} (h : s.call = none) (c : TCall) :
    s.callsWith c = s.transport.calls ++ [c] := by
  have hnew : ¬ s.call = some c := by rw [h]; nofun
  exact if_neg hnew

/-- `issue` as one record. -/
theorem State.issue_eq (s : State) (c : TCall) :
    s.issue c = { s with call := some c, transport := { s.transport with calls := s.callsWith c } } := by
  by_cases h : s.call = some c
  · rw [State.issue_issued h, State.callsWith, if_pos h, ← h]
  · rw [State.callsWith, if_neg h]
    exact if_neg h

/-- `s` after its write has been answered, `bytes` having gone out (41_transaction.md R100). -/
def State.afterWrite (s : State) (bytes : List Byte) (rest : List WriteAnswer) : State :=
  { s with
    call := none
    transport := {
      writeAnswers := rest
      readAnswers := s.transport.readAnswers
      sent := s.transport.sent ++ bytes
      calls := s.callsWith (.write REQ) } }

/-- `s` after its read has been answered, `bytes` having been stored from offset 0 on (41_transaction.md R101). -/
def State.afterRead (s : State) (bytes : List Byte) (rest : List ReadAnswer) : State :=
  { s with
    rb := s.rb.writeFrom 0 bytes
    call := none
    transport := {
      writeAnswers := s.transport.writeAnswers
      readAnswers := rest
      sent := s.transport.sent
      calls := s.callsWith (.read RESP_LEN) } }

/-- `s` after its request has been accepted (41_transaction.md R100). -/
def State.requestSent (s : State) (rest : List WriteAnswer) : State :=
  { s.afterWrite REQ rest with ts := .awaitingResponse }

/-- `s` after a read that reported success (41_transaction.md R101). -/
def State.responseRead (s : State) (bytes : List Byte) (rest : List ReadAnswer) : State :=
  { s.afterRead bytes rest with ts := .parsing }

theorem State.issue_writeAnswered (s : State) (bytes : List Byte) (rest : List WriteAnswer) :
    (s.issue (.write REQ)).writeAnswered bytes rest = s.afterWrite bytes rest := by
  rw [State.issue_eq]; rfl

theorem State.issue_readAnswered (s : State) (bytes : List Byte) (rest : List ReadAnswer) :
    (s.issue (.read RESP_LEN)).readAnswered (s.rb.writeFrom 0 bytes) rest = s.afterRead bytes rest := by
  rw [State.issue_eq]; rfl

/-! ### `SEND_COMMAND`, by the transport's answer -/

theorem execSendCommand_unanswered {s : State} (h : s.transport.writeAnswers = []) :
    execSendCommand s = .next (s.issue (.write REQ)) := by
  simp only [execSendCommand, State.issue_writeAnswers, h]

theorem execSendCommand_ok {s : State} {rest : List WriteAnswer} (h : s.transport.writeAnswers = .ok :: rest) :
    execSendCommand s = .next (s.requestSent rest) := by
  simp only [execSendCommand, State.issue_writeAnswers, h, State.issue_writeAnswered, State.requestSent]

theorem execSendCommand_err {s : State} {e : TErr} {n : Fin (REQ_LEN + 1)} {rest : List WriteAnswer}
    (h : s.transport.writeAnswers = .err e n :: rest) :
    execSendCommand s = .next ((s.afterWrite (REQ.take n.val) rest).raise (.serialWriteFail e)) := by
  simp only [execSendCommand, State.issue_writeAnswers, h, State.issue_writeAnswered]

/-- Settles O24: the two answers of a write, the record written out. -/
theorem sendCommandSendsTheRequest : Obligations.SendCommandSendsTheRequest := fun _ _ =>
  ⟨fun h => execSendCommand_ok h, fun _ _ h => execSendCommand_err h⟩

/-! ### `READ_RESPONSE`, by the transport's answer -/

theorem execReadResponse_unanswered {s : State} (h : s.transport.readAnswers = []) :
    execReadResponse s = .next (s.issue (.read RESP_LEN)) := by
  simp only [execReadResponse, State.issue_readAnswers, h]

theorem execReadResponse_ok {s : State} {d : Frame} {rest : List ReadAnswer}
    (h : s.transport.readAnswers = .ok d :: rest) :
    execReadResponse s = .next (s.responseRead d.toList rest) := by
  simp only [execReadResponse, State.issue_readAnswers, State.issue_rb, h, State.issue_readAnswered, State.responseRead]

theorem execReadResponse_short {s : State} {k : Fin RESP_LEN} {d : Frame} {rest : List ReadAnswer}
    (h : s.transport.readAnswers = .short k d :: rest) :
    execReadResponse s = .next (s.responseRead (d.toList.take k.val) rest) := by
  simp only [execReadResponse, State.issue_readAnswers, State.issue_rb, h, State.issue_readAnswered, State.responseRead]

theorem execReadResponse_err {s : State} {e : TErr} {r : Frame} {rest : List ReadAnswer}
    (h : s.transport.readAnswers = .err e r :: rest) :
    execReadResponse s = .next ((s.afterRead r.toList rest).raise (.serialReadFail e)) := by
  simp only [execReadResponse, State.issue_readAnswers, State.issue_rb, h, State.issue_readAnswered]

/-- After a full delivery every cell reads as its byte of it (20_memory.md R33). -/
theorem Memory.read?_deliver {m : Memory} (h : m.wf = true) (d : Frame) (k : Fin RESP_LEN) :
    (m.writeFrom 0 d.toList).read? k.val = some d[k] := by
  rw [Memory.read?_of_lt k.isLt, Memory.byte_deliver h]

/-- After a delivery of `k` bytes the cells below `k` read as those bytes, the others as before
(93_implementation_defined.md U4). -/
theorem Memory.read?_deliver_short {m : Memory} (h : m.wf = true) (d : Frame) (k j : Fin RESP_LEN) :
    (m.writeFrom 0 (d.toList.take k.val)).read? j.val = if j < k then some d[j] else m.read? j.val := by
  have hlength : (d.toList.take k.val).length = k.val := by simp
  rw [Memory.read?_of_lt j.isLt, Memory.read?_of_lt j.isLt,
    Memory.byte_writeFrom h 0 _ (by rw [hlength]; omega), hlength]
  by_cases hjk : j < k
  · have hreached : j.val < k.val := hjk
    simp [hjk, hreached, List.getD_eq_getElem?_getD]
  · have hbeyond : ¬ j.val < k.val := hjk
    simp [hjk, hbeyond]

/-- Settles O25: the two full answers of a read, and what twenty successive writes leave. -/
theorem readResponseFillsTheBuffer : Obligations.ReadResponseFillsTheBuffer := fun _ _ hwf =>
  ⟨fun d h => ⟨_, execReadResponse_ok h, Memory.writeFrom_wf 0 _ hwf, Memory.read?_deliver hwf d⟩,
    fun _ r h => ⟨_, execReadResponse_err h, Memory.writeFrom_wf 0 _ hwf, Memory.read?_deliver hwf r⟩⟩

/-- Settles O26: the short answer of a read stores only the bytes delivered. -/
theorem shortDeliveryLeavesTheRest : Obligations.ShortDeliveryLeavesTheRest := fun _ _ k d hwf h =>
  ⟨_, execReadResponse_short h, rfl, rfl, Memory.read?_deliver_short hwf d k⟩

/-- `READ_RESPONSE` writes no codec register, nothing of the host and, of the transport, only its read answers and the log. -/
theorem execReadResponse_frame {s t : State} (h : execReadResponse s = .next t) :
    t.len = s.len ∧ t.csum = s.csum ∧ t.res = s.res ∧ t.i = s.i ∧ t.host = s.host ∧
      t.transport.sent = s.transport.sent ∧ t.transport.writeAnswers = s.transport.writeAnswers := by
  obtain rfl | ⟨_, _, rfl⟩ | ⟨_, _, _, rfl⟩ := execReadResponse_next h <;> simp

/-- Settles O30: `RB_INIT` stays since `RB` changes by writes alone; the cells by the answer. -/
theorem readResponseFrame : Obligations.ReadResponseFrame := by
  intro s t h
  obtain ⟨hlen, hcsum, hres, hindex, hhost, hsent, hwrites⟩ := execReadResponse_frame h
  obtain ⟨bytes, hrb⟩ := execReadResponse_rb_writeFrom h
  have hinit : t.rb.init = s.rb.init := by rw [hrb, Memory.writeFrom_init]
  refine ⟨hlen, hcsum, hres, hindex, hhost, hsent, hwrites, hinit, fun k d rest hwf hshort a hka => ?_,
    fun hwait a => ?_⟩
  · cases (execReadResponse_short hshort).symm.trans h
    have hstays : ¬ a < k := Fin.not_lt.mpr hka
    exact (Memory.read?_deliver_short hwf d k a).trans (if_neg hstays)
  · cases (execReadResponse_unanswered hwait).symm.trans h
    rw [State.issue_rb]

/-! ### The wait -/

/-- A state with `c` issued differs from `s` in the pending call and the log alone. -/
theorem State.issue_wait (s : State) (c : TCall) :
    s.issue c = { s with call := some c, transport := (s.issue c).transport } ∧
      (s.issue c).transport = { s.transport with calls := (s.issue c).transport.calls } ∧
      (s.issue c).transport.calls = s.callsWith c := by
  rw [State.issue_eq]
  exact ⟨rfl, rfl, rfl⟩

/-- A block blocked in its write issues nothing more (41_transaction.md R107). -/
theorem execSendCommand_blocked {s : State} (h : s.transport.writeAnswers = []) :
    execSendCommand (s.issue (.write REQ)) = .next (s.issue (.write REQ)) := by
  rw [execSendCommand_unanswered ((s.issue_writeAnswers _).trans h), State.issue_idem]

/-- Nor does one blocked in its read. -/
theorem execReadResponse_blocked {s : State} (h : s.transport.readAnswers = []) :
    execReadResponse (s.issue (.read RESP_LEN)) = .next (s.issue (.read RESP_LEN)) := by
  rw [execReadResponse_unanswered ((s.issue_readAnswers _).trans h), State.issue_idem]

/-- Settles O27: a call without an answer is issued, and a block blocked in it stays so. -/
theorem unansweredCallBlocks : Obligations.UnansweredCallBlocks := fun s =>
  ⟨fun h => ⟨_, execSendCommand_unanswered h, execSendCommand_blocked h, s.issue_wait _⟩,
    fun h => ⟨_, execReadResponse_unanswered h, execReadResponse_blocked h, s.issue_wait _⟩⟩

/-- Whether a host serialises its starts is seen of its starts alone. -/
theorem State.serialised.of_host_eq {s t : State} (hs : s.serialised) (h : t.host = s.host) : t.serialised := by
  rw [State.serialised, h]; exact hs

/-- A host that serialises its calls lets a `READ_PM25` in progress run: a step is the sub-operation of `TS`. -/
theorem State.serialised.step_driver {s : State} (hs : s.serialised) (hph : s.ph = .idle) (hread : s.reading = true) :
    step s = exec s.ts.instr s := by
  have hbusy : s.quiet = false := by simp [State.quiet, hread]
  exact step_of_fetch (State.fetch_driver (State.hostStart_of_waiting hs hbusy) hph hread)

theorem runSteps_of_step_self {s : State} (h : step s = .next s) (n : Nat) : runSteps n s = .next s := by
  induction n with
  | zero => rfl
  | succ n ih => rw [runSteps_next n h, ih]

/-- A `READ_PM25` whose sub-operation only issues `c`, and then nothing more, never gets any further. -/
theorem runSteps_blocked {s : State} {c : TCall} (hs : s.serialised) (hph : s.ph = .idle) (hread : s.reading = true)
    (hissue : exec s.ts.instr s = .next (s.issue c)) (hblocked : exec s.ts.instr (s.issue c) = .next (s.issue c))
    (n : Nat) : ∃ t, runSteps n s = .next t ∧ t.ov = s.ov ∧ t.ts = s.ts ∧ t.reading = s.reading ∧ t.rb = s.rb := by
  cases n with
  | zero => exact ⟨s, rfl, rfl, rfl, rfl, rfl⟩
  | succ n =>
    have hfirst : step s = .next (s.issue c) := (hs.step_driver hph hread).trans hissue
    have hserial : (s.issue c).serialised := hs.of_host_eq (s.issue_host c)
    have hlater : step (s.issue c) = .next (s.issue c) := by
      rw [hserial.step_driver ((s.issue_ph c).trans hph) ((s.issue_reading c).trans hread), State.issue_ts, hblocked]
    exact ⟨s.issue c, (runSteps_next n hfirst).trans (runSteps_of_step_self hlater n), s.issue_ov c, s.issue_ts c,
      s.issue_reading c, s.issue_rb c⟩

/-- Settles O28: the first step issues the call, every later one answers the same state. -/
theorem unansweredReadPm25NeverEnds : Obligations.UnansweredReadPm25NeverEnds := by
  refine fun s n hs hph hread hov => ⟨fun hts h => ?_, fun hts h => ?_⟩
  · obtain ⟨t, hrun, hov', hts', hread', hrb⟩ := runSteps_blocked (c := .write REQ) hs hph hread
      (by rw [hts]; exact execSendCommand_unanswered h) (by rw [hts]; exact execSendCommand_blocked h) n
    exact ⟨t, hrun, hov'.trans hov, hts'.trans hts, hread'.trans hread, hrb⟩
  · obtain ⟨t, hrun, hov', hts', hread', hrb⟩ := runSteps_blocked (c := .read RESP_LEN) hs hph hread
      (by rw [hts]; exact execReadResponse_unanswered h) (by rw [hts]; exact execReadResponse_blocked h) n
    exact ⟨t, hrun, hov'.trans hov, hts'.trans hts, hread'.trans hread, hrb⟩

/-! ### A serialised host is never refused -/

/-- A host that serialises its calls starts an operation only on a quiet block. -/
theorem State.serialised.quiet_of_hostStart {s : State} {op : HostOp} (hs : s.serialised) (h : s.hostStart = some op) :
    s.quiet = true := by
  cases hquiet : s.quiet with
  | true => rfl
  | false => cases (State.hostStart_of_waiting hs hquiet).symm.trans h

/-- A start on a quiet block is not refused, and leaves the host's later starts. -/
theorem execHost_completes {s : State} (op : HostOp) (h : s.quiet = true) :
    ∃ t, exec op.instr s = .next t ∧ t.host = s.host := by
  cases op with
  | parse => exact ⟨_, if_pos h, rfl⟩
  | readPm25 => exact ⟨_, if_pos h, rfl⟩

/-- To commit is to answer a next state, with or without an error. -/
theorem State.commit_completes (s : State) (r : Except ErrorKind State) : ∃ t, s.commit r = .next t := by
  cases r with
  | ok t => exact ⟨t, rfl⟩
  | error k => exact ⟨s.raise k, rfl⟩

/-- A micro-operation always completes, and leaves the host. -/
theorem exec_pos_completes {i : Instr} (hi : i.format = .pos) (s : State) :
    ∃ t, exec i s = .next t ∧ t.host = s.host := by
  obtain ⟨r, hr⟩ := exec_pos_eq_commit hi s
  obtain ⟨t, ht⟩ := s.commit_completes r
  have hnext : exec i s = .next t := hr.trans ht
  obtain ⟨-, hhost, -⟩ := (exec_pos_result hi hnext).environment_eq
  exact ⟨t, hnext, hhost⟩

/-- A sub-operation on an idle codec is not refused, whether the transport answers or not, and leaves the host. -/
theorem execDriver_completes {s : State} (ts : TState) (hph : s.ph = .idle) :
    ∃ t, exec ts.instr s = .next t ∧ t.host = s.host := by
  cases ts with
  | idle =>
    have hnext : ∃ t, execSendCommand s = .next t := by
      unfold execSendCommand; dsimp only; split <;> exact ⟨_, rfl⟩
    obtain ⟨t, ht⟩ := hnext
    obtain ⟨-, -, hhost, -⟩ := execSendCommand_frame ht
    exact ⟨t, ht, hhost⟩
  | awaitingResponse =>
    have hnext : ∃ t, execReadResponse s = .next t := by
      unfold execReadResponse; dsimp only; split <;> exact ⟨_, rfl⟩
    obtain ⟨t, ht⟩ := hnext
    obtain ⟨-, -, -, -, hhost, -⟩ := execReadResponse_frame ht
    exact ⟨t, ht, hhost⟩
  | parsing => exact ⟨_, if_pos hph, rfl⟩

/-- Settles O33: a start comes on a quiet block only, no other operation is refused, and a step takes at most one start off. -/
theorem serialisedHostIsNeverRefused : Obligations.SerialisedHostIsNeverRefused := by
  intro s hs
  obtain ⟨-, -, -, hidle⟩ | ⟨op, hop, hstart⟩ | ⟨i, -, -, hi, hcodec⟩ | ⟨-, hph, -, hdriver⟩ := step_cases (s := s) rfl
  · exact ⟨s, hidle, hs⟩
  · obtain ⟨t, ht, hhost⟩ := execHost_completes (s := { s with host := s.host.tail }) op (hs.quiet_of_hostStart hop)
    have htail : State.serialised { s with host := s.host.tail } := fun x hx => hs x (List.mem_of_mem_tail hx)
    exact ⟨t, hstart.trans ht, htail.of_host_eq hhost⟩
  · obtain ⟨t, ht, hhost⟩ := exec_pos_completes (Phase.instr_format hi) s
    exact ⟨t, hcodec.trans ht, hs.of_host_eq hhost⟩
  · obtain ⟨t, ht, hhost⟩ := execDriver_completes s.ts hph
    exact ⟨t, hdriver.trans ht, hs.of_host_eq hhost⟩

end Sys2Proof.Machine
end

section
/-! PROOFS. A whole `READ_PM25` (41_transaction.md R100 to R105, R110, R111), step by step from its start to each of its three
ends: a failed write, a failed read, and the `PARSE` of the frame delivered. -/

namespace Sys2Proof.Machine

/-! ### The steps before the `PARSE` -/

/-- `s` with a `READ_PM25` just started (41_transaction.md R103). -/
def State.beginReadPm25 (s : State) : State := { s with ov := false, reading := true }

/-- A `READ_PM25` that starts has found the block quiet and only begins its progress. -/
theorem execReadPm25_next {s p : State} (h : exec .readPm25 s = .next p) :
    s.ph = .idle ∧ s.ts = .idle ∧ p = s.beginReadPm25 := by
  obtain ⟨hquiet, ⟨hop, -⟩ | ⟨-, hp⟩⟩ := execHost_next (op := .readPm25) h
  · cases hop
  · obtain ⟨hph, hts, -⟩ := State.quiet_iff.mp hquiet
    exact ⟨hph, hts, hp⟩

section Driver

variable {s : State} (hs : s.serialised) (hph : s.ph = .idle)
include hs hph

/-- The first step is `SEND_COMMAND` (41_transaction.md R103). -/
theorem step_beginReadPm25 (hts : s.ts = .idle) : step s.beginReadPm25 = execSendCommand s.beginReadPm25 :=
  (State.serialised.step_driver (s := s.beginReadPm25) hs hph rfl).trans
    (congrArg (fun ts => exec ts.instr s.beginReadPm25) hts)

/-- Once the request is accepted, the next step is `READ_RESPONSE`. -/
theorem step_requestSent (hread : s.reading = true) (ws : List WriteAnswer) :
    step (s.requestSent ws) = execReadResponse (s.requestSent ws) :=
  State.serialised.step_driver (s := s.requestSent ws) hs hph hread

/-- Once the read has succeeded, the next step is `PARSE_INVOKE`, which begins the `PARSE` (41_transaction.md R102; log 1). -/
theorem step_responseRead (hread : s.reading = true) (bytes : List Byte) (rs : List ReadAnswer) :
    step (s.responseRead bytes rs) = .next (s.responseRead bytes rs).beginParse :=
  (State.serialised.step_driver (s := s.responseRead bytes rs) hs hph hread).trans (if_pos hph)

/-- A `READ_PM25` whose request is accepted goes on to the read. -/
theorem runSteps_beginReadPm25 (hts : s.ts = .idle) {ws : List WriteAnswer} (h : s.transport.writeAnswers = .ok :: ws)
    (n : Nat) : runSteps (n + 1) s.beginReadPm25 = runSteps n (s.beginReadPm25.requestSent ws) :=
  runSteps_next n ((step_beginReadPm25 hs hph hts).trans (execSendCommand_ok h))

/-- A `READ_PM25` whose transport delivers a frame goes on to the `PARSE` of it. -/
theorem runSteps_requestSent (hread : s.reading = true) (ws : List WriteAnswer) {d : Frame} {rs : List ReadAnswer}
    (h : s.transport.readAnswers = .ok d :: rs) (n : Nat) :
    runSteps (n + 2) (s.requestSent ws) = runSteps n ((s.requestSent ws).responseRead d.toList rs).beginParse :=
  calc runSteps (n + 2) (s.requestSent ws)
    _ = runSteps (n + 1) ((s.requestSent ws).responseRead d.toList rs) :=
      runSteps_next (n + 1) ((step_requestSent hs hph hread ws).trans (execReadResponse_ok h))
    _ = runSteps n ((s.requestSent ws).responseRead d.toList rs).beginParse :=
      runSteps_next n (step_responseRead (s := s.requestSent ws) hs hph hread d.toList rs)

end Driver

/-- The log of a `READ_PM25` whose request was accepted: the write, and then the read. -/
theorem State.requestSent_callsWith_read {s : State} (h : s.call = none) (ws : List WriteAnswer) :
    (s.requestSent ws).callsWith (.read RESP_LEN) = s.transport.calls ++ [.write REQ, .read RESP_LEN] := by
  have hlog : (s.requestSent ws).transport.calls = s.transport.calls ++ [.write REQ] := State.callsWith_of_call_eq_none h _
  rw [State.callsWith_of_call_eq_none rfl, hlog, List.append_assoc]
  rfl

/-! ### The two failures -/

/-- Settles O43: the one step is the `SEND_COMMAND` that raises. -/
theorem failedWriteEndsWithoutARead : Obligations.FailedWriteEndsWithoutARead := by
  intro s p e n ws hs hcall hstart hwrites
  obtain ⟨hph, hts, rfl⟩ := execReadPm25_next hstart
  have hfail := (step_beginReadPm25 hs hph hts).trans (execSendCommand_err hwrites)
  exact ⟨_, runSteps_next 0 hfail, rfl, rfl, rfl, rfl, rfl, rfl, rfl, rfl, rfl, rfl,
    State.callsWith_of_call_eq_none (s := s.beginReadPm25) hcall _⟩

/-- Settles O44: the second step is the `READ_RESPONSE` that raises. -/
theorem failedReadEndsWithoutAParse : Obligations.FailedReadEndsWithoutAParse := by
  intro s p e r ws rs hs hcall hstart hwrites hreads
  obtain ⟨hph, hts, rfl⟩ := execReadPm25_next hstart
  have hfail := (step_requestSent (s := s.beginReadPm25) hs hph rfl ws).trans (execReadResponse_err hreads)
  exact ⟨_, (runSteps_beginReadPm25 hs hph hts hwrites 1).trans (runSteps_next 0 hfail), rfl, rfl, rfl, rfl, rfl, rfl,
    rfl, rfl, rfl, State.requestSent_callsWith_read (s := s.beginReadPm25) hcall ws⟩

/-! ### The `PARSE` of the frame delivered -/

/-- The micro-operations before the end leave the driver's progress and the transport. -/
theorem State.afterMicro_driver (p : State) (n : Nat) :
    (p.afterMicro n).reading = p.reading ∧ (p.afterMicro n).transport = p.transport := by
  match n with
  | 0 | 1 | _ + 2 => exact ⟨rfl, rfl⟩

/-- However the `PARSE` of a `READ_PM25` ends, the transaction is over, and the transport is as it was. -/
theorem State.finish_driver {s : State} (h : s.reading = true) (o : OpOutcome) :
    (s.finish o).ts = .idle ∧ (s.finish o).reading = false ∧ (s.finish o).transport = s.transport := by
  cases o with
  | ok v => exact ⟨s.complete_ts.trans (if_pos h), s.complete_reading, s.complete_transport⟩
  | error k => exact ⟨rfl, rfl, rfl⟩

/-- The end of a `READ_PM25` whose `PARSE` began in `p` (41_transaction.md R102, R104). -/
theorem transaction_end {p : State} (hread : p.reading = true) :
    let t := (p.afterMicro (parseSteps p.rb - 1)).finish (parseClosed p.rb)
    t.ov = true ∧ t.ph = .idle ∧ t.ts = .idle ∧ t.reading = false ∧ t.outcome = parseClosed p.rb ∧ t.rb = p.rb ∧
      t.transport = p.transport := by
  intro t
  obtain ⟨hrb, -, -⟩ := p.afterMicro_frame (parseSteps p.rb - 1)
  obtain ⟨hread', htransport⟩ := p.afterMicro_driver (parseSteps p.rb - 1)
  obtain ⟨hov, hph, hrb', -⟩ := (p.afterMicro (parseSteps p.rb - 1)).finish_end (parseClosed p.rb)
  obtain ⟨hts, hover, htransport'⟩ := State.finish_driver (hread'.trans hread) (parseClosed p.rb)
  exact ⟨hov, hph, hts, hover, State.finish_outcome fun _ => State.afterMicro_last_res, hrb'.trans hrb,
    htransport'.trans htransport⟩

/-- Settles O42: the three steps before the `PARSE`, then its run on the frame delivered. -/
theorem readPm25RunGivesTheClosedForm : Obligations.ReadPm25RunGivesTheClosedForm := by
  intro s p d ws rs hs hwf hcall hstart hwrites hreads
  obtain ⟨hph, hts, rfl⟩ := execReadPm25_next hstart
  let q := ((s.beginReadPm25.requestSent ws).responseRead d.toList rs).beginParse
  have hserial : q.serialised := hs
  have hrun : runSteps (parseSteps q.rb + 3) s.beginReadPm25 = runSteps (parseSteps q.rb) q :=
    (runSteps_beginReadPm25 hs hph hts hwrites _).trans (runSteps_requestSent (s := s.beginReadPm25) hs hph rfl ws hreads _)
  obtain ⟨hov, hidle, hts', hover, hout, hrb, htransport⟩ := transaction_end (p := q) rfl
  refine ⟨_, q.rb, Memory.read?_deliver hwf d, hrun.trans (runSteps_parse hserial rfl rfl), hov, hidle, hts', hover, hout,
    hrb, htransport.trans ?_⟩
  have hcalls := State.requestSent_callsWith_read (s := s.beginReadPm25) hcall ws
  exact congrArg (Transport.mk ws rs (s.transport.sent ++ REQ)) hcalls

end Sys2Proof.Machine
end

section
/-! PROOFS. The exceptions (60_exceptions.md R128): what a micro-operation that ends with an error has written. -/

namespace Sys2Proof.Machine

/-- An error that a micro-operation brings into the outcome is one it has raised: to complete answers `Ok`, and to go on
leaves the outcome. -/
theorem MicroResult.eq_raise {s t : State} {k : ErrorKind} (h : MicroResult s t) (hnew : s.outcome ≠ .error k)
    (hout : t.outcome = .error k) : t = s.raise k := by
  cases h with
  | raised j => cases hout; rfl
  | completed => cases s.complete_outcome.symm.trans hout
  | goesOn => exact absurd hout hnew

/-- Settles O20: the error entry writes from the state the micro-operation began in. -/
theorem raisingMicroOperationWritesNothingElse : Obligations.RaisingMicroOperationWritesNothingElse :=
  fun i hi _ _ _ hnew h hout => (exec_pos_result (format_eq_pos_of_mem i hi) h).eq_raise hnew hout

end Sys2Proof.Machine
end

section
/-! PROOFS. The sequencer (70_reset_and_hazards.md R158, 41_transaction.md R102, R104, R107, 10_state.md R17): the three shapes of a
sound state, and that every step leaves one of them. -/

namespace Sys2Proof.Machine

/-! ### The shapes of a sound sequencer -/

theorem SequencerSound.of_idle {s : State} (hph : s.ph = .idle) (hts : s.ts = .idle) (hread : s.reading = false)
    (hcall : s.call = none) : SequencerSound s where
  endedIsIdle _ := ⟨hph, hts, hread⟩
  driverActive hne := absurd hts hne
  codecInDriver hne := absurd hph hne
  callPending := by rw [hcall]; nofun

/-- A `READ_PM25` in progress whose `PARSE` is not: only the pending call has to fit `TS` (41_transaction.md R107). -/
theorem SequencerSound.of_driver {s : State} (hov : s.ov = false) (hph : s.ph = .idle) (hread : s.reading = true)
    (hcall : ∀ c, s.call = some c →
      (s.ts = .idle ∧ c = .write REQ) ∨ (s.ts = .awaitingResponse ∧ c = .read RESP_LEN)) : SequencerSound s where
  endedIsIdle := by rw [hov]; nofun
  driverActive _ := hread
  codecInDriver hne := absurd hph hne
  callPending c hc := ⟨hread, hph, hcall c hc⟩

/-- A `PARSE` in progress: no call is pending, and a `READ_PM25` around it is in `TS = Parsing` (41_transaction.md R102). -/
theorem SequencerSound.of_codec {s : State} (hov : s.ov = false) (hactive : s.ts ≠ .idle → s.reading = true)
    (hparsing : s.reading = true → s.ts = .parsing) (hcall : s.call = none) : SequencerSound s where
  endedIsIdle := by rw [hov]; nofun
  driverActive := hactive
  codecInDriver _ := hparsing
  callPending := by rw [hcall]; nofun

/-! ### What a sound sequencer says of the state -/

/-- A call is pending neither in a `PARSE`, nor outside a `READ_PM25`, nor once the read is over (41_transaction.md R107). -/
theorem SequencerSound.call_eq_none {s : State} (hs : SequencerSound s)
    (h : s.ph ≠ .idle ∨ s.reading = false ∨ s.ts = .parsing) : s.call = none := by
  cases hcall : s.call with
  | none => rfl
  | some c =>
    obtain ⟨hread, hph, hcaller⟩ := hs.callPending c hcall
    obtain hne | hquiet | hparsing := h
    · exact absurd hph hne
    · cases hread.symm.trans hquiet
    · obtain ⟨hts, -⟩ | ⟨hts, -⟩ := hcaller <;> cases hparsing.symm.trans hts

/-- Outside a `READ_PM25`, `TS` is `Idle` (10_state.md R17). -/
theorem SequencerSound.ts_eq_idle {s : State} (hs : SequencerSound s) (h : s.reading = false) : s.ts = .idle :=
  Decidable.byContradiction fun hne => by cases h.symm.trans (hs.driverActive hne)

/-! ### What each kind of step leaves -/

/-- A start finds the block quiet and begins a `PARSE` without the driver, or a `READ_PM25` at its first sub-operation. -/
theorem execHost_sequencerSound {op : HostOp} {s t : State} (hs : SequencerSound s) (h : exec op.instr s = .next t) :
    SequencerSound t := by
  obtain ⟨hquiet, hstart⟩ := execHost_next h
  obtain ⟨hph, hts, hread⟩ := State.quiet_iff.mp hquiet
  have hcall : s.call = none := hs.call_eq_none (.inr (.inl hread))
  obtain ⟨-, rfl⟩ | ⟨-, rfl⟩ := hstart
  · exact .of_codec rfl (fun hne => absurd hts hne) (fun hreading => by cases hread.symm.trans hreading) hcall
  · exact .of_driver rfl hph rfl fun c hc => by cases hcall.symm.trans hc

/-- A micro-operation ends the `PARSE`, and with it a `READ_PM25` around it, or goes on and leaves the driver's progress. -/
theorem MicroResult.sequencerSound {s t : State} (h : MicroResult s t) (hs : SequencerSound s) (hph : s.ph ≠ .idle) :
    SequencerSound t := by
  have hcall : s.call = none := hs.call_eq_none (.inl hph)
  cases h with
  | raised k => exact .of_idle rfl rfl rfl hcall
  | completed =>
    have hts : s.complete.ts = .idle := by
      rw [State.complete_ts]
      split
      case isTrue => rfl
      case isFalse hread => exact hs.ts_eq_idle (eq_false_of_ne_true hread)
    exact .of_idle s.complete_ph hts s.complete_reading (s.complete_call.trans hcall)
  | goesOn => exact .of_codec (hs.ov_false (.inl hph)) hs.driverActive (hs.codecInDriver hph) hcall

/-- A sub-operation waits in its own call, or has had its answer and moves `TS` on, or raises; `PARSE_INVOKE` runs in
`TS = Parsing`, where no call is pending. -/
theorem execDriver_sequencerSound {s t : State} (hs : SequencerSound s) (hph : s.ph = .idle) (hread : s.reading = true)
    (h : exec s.ts.instr s = .next t) : SequencerSound t := by
  have hov : s.ov = false := hs.ov_false (.inr hread)
  have hissued : ∀ c, (s.issue c).ov = false ∧ (s.issue c).ph = .idle ∧ (s.issue c).reading = true := fun c =>
    ⟨(s.issue_ov c).trans hov, (s.issue_ph c).trans hph, (s.issue_reading c).trans hread⟩
  cases hts : s.ts with
  | idle =>
    rw [hts] at h
    obtain ⟨hov', hph', hread'⟩ := hissued (.write REQ)
    obtain rfl | ⟨_, rfl⟩ | ⟨_, _, _, rfl⟩ := execSendCommand_next h
    · refine .of_driver hov' hph' hread' fun c hc => .inl ⟨(s.issue_ts _).trans hts, ?_⟩
      cases (s.issue_call _).symm.trans hc; rfl
    · exact .of_driver hov' hph' hread' nofun
    · exact .of_idle rfl rfl rfl rfl
  | awaitingResponse =>
    rw [hts] at h
    obtain ⟨hov', hph', hread'⟩ := hissued (.read RESP_LEN)
    obtain rfl | ⟨_, _, rfl⟩ | ⟨_, _, _, rfl⟩ := execReadResponse_next h
    · refine .of_driver hov' hph' hread' fun c hc => .inr ⟨(s.issue_ts _).trans hts, ?_⟩
      cases (s.issue_call _).symm.trans hc; rfl
    · exact .of_driver hov' hph' hread' nofun
    · exact .of_idle rfl rfl rfl rfl
  | parsing =>
    rw [hts] at h
    obtain ⟨-, rfl⟩ := execParseInvoke_next h
    exact .of_codec hov (fun _ => hread) (fun _ => hts) (hs.call_eq_none (.inr (.inr hts)))

/-- Taking a start off the host's list leaves the sequencer. -/
theorem SequencerSound.of_host {s : State} (hs : SequencerSound s) (host : List HostStart) :
    SequencerSound { s with host := host } :=
  ⟨hs.endedIsIdle, hs.driverActive, hs.codecInDriver, hs.callPending⟩

/-- Settles O36: an idle step changes nothing, and a start, a micro-operation and a sub-operation each leave one of the shapes. -/
theorem stepKeepsSequencerSound : Obligations.StepKeepsSequencerSound := by
  intro s t hs h
  obtain ⟨-, -, -, hidle⟩ | ⟨op, -, hstart⟩ | ⟨i, -, hph, hi, hcodec⟩ | ⟨-, hph, hread, hdriver⟩ := step_cases h
  · cases hidle; exact hs
  · exact execHost_sequencerSound (hs.of_host _) hstart.symm
  · exact (exec_pos_result (Phase.instr_format hi) hcodec.symm).sequencerSound hs hph
  · exact execDriver_sequencerSound hs hph hread hdriver.symm

end Sys2Proof.Machine
end

section
/-! PROOFS. What the host reads (70_reset_and_hazards.md R154, 10_state.md R19, R20, R21, 60_exceptions.md R120). -/

namespace Sys2Proof.Machine

/-- Before there is an outcome every read of the host answers none (log 10). -/
theorem State.hostReads_of_ov_false {s : State} (hov : s.ov = false) :
    s.hostSTATUS = none ∧ s.hostINFO0 = none ∧ s.hostINFO1 = none ∧ s.hostTERR = none ∧ s.hostRES = none := by
  have hnone : s.hostOutcome = none := by rw [State.hostOutcome, hov]; rfl
  simp [State.hostSTATUS, State.hostINFO0, State.hostINFO1, State.hostTERR, State.hostRES, hnone]

/-- While the outcome is valid each read answers what the outcome's kind assigns, `RES` where there is a measurement. -/
theorem State.hostReads_of_outcome {s : State} {o : OpOutcome} (hov : s.ov = true) (h : s.outcome = o) :
    s.hostSTATUS = some o.status ∧ s.hostINFO0 = o.info0 ∧ s.hostINFO1 = o.info1 ∧ s.hostTERR = o.terr ∧
      s.hostRES = o.measurement.map fun _ => s.res := by
  have hsome : s.hostOutcome = some o := by rw [State.hostOutcome, if_pos hov, h]
  simp [State.hostSTATUS, State.hostINFO0, State.hostINFO1, State.hostTERR, State.hostRES, hsome]

/-- Settles O52: no outcome while `OV = 0`, and otherwise the registers of each of the seven kinds in turn. -/
theorem hostSeesTheOutcomeOnly : Obligations.HostSeesTheOutcomeOnly := fun _ =>
  ⟨State.hostReads_of_ov_false, fun hov =>
    ⟨fun _ h => State.hostReads_of_outcome hov h, fun _ h => State.hostReads_of_outcome hov h,
      fun _ h => State.hostReads_of_outcome hov h, fun _ _ h => State.hostReads_of_outcome hov h,
      fun _ h => State.hostReads_of_outcome hov h, fun _ h => State.hostReads_of_outcome hov h,
      fun _ h => State.hostReads_of_outcome hov h⟩⟩

end Sys2Proof.Machine
end
